-- ==== Sys2Proof/Word.lean ====
section
/-! DEFINITION. The widths the spec names (rule R9 of 00_scope.md), and a set of eight words read by a
round index (rules R27 and R32 of 10_state.md). -/

namespace Sys2Proof

/-- An 8-bit value, one transfer of DIN or DOUT (rules R9 and R59). -/
abbrev Byte := BitVec 8

/-- A 16-bit value: a key word, a round-key entry, a quarter of a block (rule R9). -/
abbrev Word := BitVec 16

/-- A 32-bit value: half of a block (rule R9). -/
abbrev Half := BitVec 32

/-- One transfer of the CMD channel (rules R67 and R71). -/
abbrev CommandWord := BitVec 32

/-- One transfer of the RSP channel (rules R67 and R79). -/
abbrev ResponseWord := BitVec 32

/-- A round index, 0 to 7 (rule R37: 3 bits). Its addition is addition modulo 8, the index arithmetic of rule R15. -/
abbrev RoundIndex := Fin 8

/-- Eight 16-bit entries indexed 0 to 7: one round-key array (rule R27), or one set of staging words (rule R32). -/
structure Words8 where
  w0 : Word
  w1 : Word
  w2 : Word
  w3 : Word
  w4 : Word
  w5 : Word
  w6 : Word
  w7 : Word
deriving DecidableEq, Repr, Inhabited

/-- Entry `n` of the eight. -/
def Words8.get (v : Words8) (n : RoundIndex) : Word :=
  match n with
  | 0 => v.w0
  | 1 => v.w1
  | 2 => v.w2
  | 3 => v.w3
  | 4 => v.w4
  | 5 => v.w5
  | 6 => v.w6
  | 7 => v.w7

/-- The eight entries given by a rule `f` (the spec's `for n in 0..7: X[n] <- f n`). -/
def Words8.ofFn (f : RoundIndex → Word) : Words8 :=
  ⟨f 0, f 1, f 2, f 3, f 4, f 5, f 6, f 7⟩

end Sys2Proof
end

