-- ==== Sys2Proof/Machine/Operands.lean ====
section
/-! DEFINITION. Assembling payload bytes into words and halves and back (rules R55 to R57 of 20_memory.md), and the two
16-bit operators of 00_scope.md that the units share. -/

namespace Sys2Proof.Machine

/-- The two halves of a block (rules R31 and R56). -/
structure Halves where
  left : Half
  right : Half
deriving DecidableEq, Repr

/-- `P[i]`, payload byte `i` (rule R17). The commands read it only below the length they have checked. -/
def payloadByte (p : List Byte) (i : Nat) : Byte := p.getD i 0

/-- Rules R55 and R110: `ukey[i] = P[2i] ‖ P[2i+1]`, most significant byte first. -/
def keyWords (p : List Byte) : Words8 :=
  Words8.ofFn fun i => payloadByte p (2 * i.val) ++ payloadByte p (2 * i.val + 1)

/-- Four payload bytes from byte `k` on as a half, most significant byte first (rules R10 and R56). -/
def payloadHalf (p : List Byte) (k : Nat) : Half :=
  payloadByte p k ++ payloadByte p (k + 1) ++ payloadByte p (k + 2) ++ payloadByte p (k + 3)

/-- Rule R56: `left` from `P[0..3]`, `right` from `P[4..7]`. -/
def blockHalves (p : List Byte) : Halves := ⟨payloadHalf p 0, payloadHalf p 4⟩

/-- The four bytes of a half, most significant first (rule R56). -/
def halfBytes (v : Half) : List Byte :=
  [v.extractLsb' 24 8, v.extractLsb' 16 8, v.extractLsb' 8 8, v.extractLsb' 0 8]

/-- Rule R56: `Q[0..3]` from `left`, `Q[4..7]` from `right`. -/
def resultBytes (h : Halves) : List Byte := halfBytes h.left ++ halfBytes h.right

/-- Rule R14: rotation left by `k` within 16 bits, written as the rule writes it. -/
def rotl16 (v : Word) (k : Nat) : Word := (v <<< k) ||| (v >>> (16 - k))

/-- `hi16 = v[31:16]` (rule R34). -/
def hi16 (v : Half) : Word := v.extractLsb' 16 16

/-- `lo16 = v[15:0]` (rule R34). -/
def lo16 (v : Half) : Word := v.extractLsb' 0 16

end Sys2Proof.Machine
end

