-- ==== Sys2Proof/Config.lean ====
section
/-! DEFINITION. The fixed and open parameters (rules R6 and R7 of 00_scope.md), and the values the spec leaves
unspecified after a reset event (rules R42 and R43 of 10_state.md) as constants without a body. -/

namespace Sys2Proof.Config

/-- `BLOCKSIZE`, bytes in a block (rules R6 and R25). -/
def blockSize : Nat := 8

/-- `KEYSIZE`, bytes in a key (rules R6 and R25). -/
def keySize : Nat := 16

/-- `NENG`, rule R7: its default. Machine/Chip.lean takes the number as an argument. -/
def defaultEngines : Nat := 1

/-- The latency parameters of rule R7: `LAT_LOADKEY`, `LAT_BLOCK`, `LAT_OTHER`. -/
inductive LatencyParameter where
  | loadkey | block | other
deriving DecidableEq, Repr

/-- The value of a latency parameter. The spec gives it no default, and no rule uses it (rules R7 and R245), so no
definition of the model does (log entry 11). Nothing in Lean can evaluate this value. -/
opaque latency : LatencyParameter → Nat

/-- Rule R7, `S7_TABLE` and `S9_TABLE`: the contents of the two ROMs, laid out as the rows of sixteen that
rules R102 and R103 of 40_sbox.md print. The defaults stand in Machine/SBox.lean, and the field `rom` of State holds
the tables an engine runs with. The type admits tables that are not of the sizes of rule R6 (`SBoxes.wellSized` says which are): how such
a table reads is the model's choice (log entry 22). -/
structure SBoxes where
  s7Rows : List (List Nat)
  s9Rows : List (List Nat)
deriving DecidableEq, Repr

/-- Rule R6: 128 entries of 7 bits and 512 entries of 9 bits. -/
def SBoxes.wellSized (t : SBoxes) : Bool :=
  decide (t.s7Rows.length = 8) && decide (t.s9Rows.length = 32) &&
    t.s7Rows.all (fun row => decide (row.length = 16) && row.all (· < 128)) &&
    t.s9Rows.all (fun row => decide (row.length = 16) && row.all (· < 512))

/-- The sets of eight words that a reset event leaves unspecified (rules R42 and R43). -/
inductive OpenWords where
  | kl1 | kl2 | ko1 | ko2 | ko3 | ki1 | ki2 | ki3 | uk | kp
deriving DecidableEq, Repr

/-- The halves that a reset event leaves unspecified (rule R43). -/
inductive OpenHalf where
  | l | r
deriving DecidableEq, Repr

/-- DESIGN CHOICE (log entry 1). What a set of eight words holds after the reset event number `k`. Rule R42: "A model must not assume zero
and must not let any response depend on them." Nothing in Lean can evaluate this value. -/
opaque resetWords : OpenWords → Nat → Words8

/-- DESIGN CHOICE (log entry 1). What `L` or `R` holds after the reset event number `k` (rule R43). -/
opaque resetHalf : OpenHalf → Nat → Half

/-- DESIGN CHOICE (log entry 1). What `N` holds after the reset event number `k` (rule R43). -/
opaque resetIndex : Nat → RoundIndex

end Sys2Proof.Config
end

