-- ==== Sys2Proof/Machine/State.lean ====
section
/-! DEFINITION. The state of one engine with its four channels (rule R20 of 10_state.md, rule R67 of 20_memory.md), the reasons a
step can stop, and the state right after a reset event. -/

namespace Sys2Proof.Machine

/-- Rule R205: "There is no other failure." Every failure the spec gives the engine is a status in a response
frame, after which the engine goes on (rules R209 and R211), so a step has no reason to stop: this inductive has no
constructor. Safe: nothing raises it. -/
inductive Fault where
deriving DecidableEq, Repr

/-- The ways a step can refuse. The engine refuses nothing (rule R76: every command word has a defined outcome). -/
inductive Refusal where
  /-- Raised by no arm of `exec`: every command has its meaning. The host asks for the constructor. Safe. -/
  | notModelled (mnemonic : String)
deriving DecidableEq, Repr

/-- The RK file (rules R27 and R54): eight arrays of eight 16-bit entries. -/
structure RoundKeys where
  kl1 : Words8
  kl2 : Words8
  ko1 : Words8
  ko2 : Words8
  ko3 : Words8
  ki1 : Words8
  ki2 : Words8
  ki3 : Words8
deriving DecidableEq, Repr

/-- `SEQ` (rules R20 and R37). `BUSY` comes with what it is waiting for, which rule R244 lists: the command in flight is
dropped by a reset event (rule R232), so the engine holds it (log entry 3). -/
inductive Seq where
  /-- `IDLE`: the engine can take a command word. -/
  | idle
  /-- `BUSY`: command word `w` is taken and its payload is not yet all in DIN. -/
  | awaitPayload (w : CommandWord)
  /-- `BUSY`: the response word `v` is offered on RSP, the result bytes `q` follow it. -/
  | sendWord (v : ResponseWord) (q : List Byte)
  /-- `BUSY`: the response word is out, the result bytes `q` are offered on DOUT. -/
  | sendBytes (q : List Byte)
deriving DecidableEq, Repr

/-- One engine (rule R20), the four channels between it and the host (rule R67), and the host's input pins. The fixed
parameters BLOCKSIZE and KEYSIZE (rule R6) are no fields: Config.lean holds them. -/
structure State where
  /-- The ROMs `S7` and `S9` (rules R20 and R40): the open parameters `S7_TABLE` and `S9_TABLE` of rule R7. Nothing writes them. -/
  rom : Config.SBoxes
  /-- `KV`, the key-valid flag (rule R21). -/
  kv : Bool
  /-- The RK file (rule R27). -/
  rk : RoundKeys
  /-- `L` (rule R31), transient. -/
  l : Half
  /-- `R` (rule R31), transient. -/
  r : Half
  /-- `N`, the round index (rule R37), transient. -/
  n : RoundIndex
  /-- `UK[0..7]` (rule R32), transient. -/
  uk : Words8
  /-- `KP[0..7]` (rule R32), transient. -/
  kp : Words8
  /-- `SEQ` (rule R37). -/
  seq : Seq
  /-- CMD: command words the host has sent and the engine has not taken, oldest first (rules R39 and R67). -/
  cmd : List CommandWord
  /-- DIN: payload bytes the host has sent and the engine has not taken, oldest first. -/
  din : List Byte
  /-- RSP: response words the engine has sent and the host has not collected, oldest first. -/
  rsp : List ResponseWord
  /-- DOUT: result bytes the engine has sent and the host has not collected, oldest first. -/
  dout : List Byte
  /-- The pin `rst_n` (rules R67 and R230), driven by the host: false is low. -/
  rstN : Bool
  /-- The pin `rsp_ready` (rule R67), driven by the host. -/
  rspReady : Bool
  /-- The pin `dout_ready` (rule R67), driven by the host. -/
  doutReady : Bool
  /-- The model's own counter of reset events, which selects the unspecified values (log entry 1). -/
  resets : Nat
deriving DecidableEq, Repr

/-- The RK file after the reset event number `k`: unspecified (rule R42, log entry 1). -/
def RoundKeys.unspecified (k : Nat) : RoundKeys :=
  { kl1 := Config.resetWords .kl1 k, kl2 := Config.resetWords .kl2 k
    ko1 := Config.resetWords .ko1 k, ko2 := Config.resetWords .ko2 k
    ko3 := Config.resetWords .ko3 k, ki1 := Config.resetWords .ki1 k
    ki2 := Config.resetWords .ki2 k, ki3 := Config.resetWords .ki3 k }

/-- The start state of rule R248 after the reset event number `k`: `KV` = 0, `SEQ` = `IDLE`, the four channels empty, the
RK file and the transient registers unspecified (rules R41 to R43), the ROMs the default tables (rule R7). The pins read as a host leaves them that has ended
the reset and takes every response (log entry 4). -/
def State.afterReset (k : Nat) : State :=
  { rom := sBoxes
    kv := false
    rk := RoundKeys.unspecified k
    l := Config.resetHalf .l k
    r := Config.resetHalf .r k
    n := Config.resetIndex k
    uk := Config.resetWords .uk k
    kp := Config.resetWords .kp k
    seq := .idle
    cmd := []
    din := []
    rsp := []
    dout := []
    rstN := true
    rspReady := true
    doutReady := true
    resets := k }

/-- The engine right after its first reset event (rules R230, R233 and R248). -/
def State.reset : State := State.afterReset 0

end Sys2Proof.Machine
end

