-- ==== Sys2Proof/Machine/Cipher.lean ====
section
/-! DEFINITION. The units FI, FO, FL and the round multiplexer (42_fi.md to 45_feistel.md) as pure functions of the
tables, the RK file and their operands (rule R18). -/

namespace Sys2Proof.Machine

/-- The two parts FI works on (rules R34 and R130). -/
structure FiParts where
  nine : BitVec 9
  seven : BitVec 7
deriving DecidableEq, Repr

/-- `FI.SPLIT`, rule R130: `nine = in[15:7]`, `seven = in[6:0]`. -/
def fiSplit (x : Word) : FiParts := ⟨x.extractLsb' 7 9, x.extractLsb' 0 7⟩

/-- The new 9-bit part of `FI.LAYER`, rule R131: `S9[nine] ^ zext_9(seven)`. -/
def fiLayerNine (t : Config.SBoxes) (p : FiParts) : BitVec 9 := s9 t p.nine ^^^ p.seven.setWidth 9

/-- `FI.LAYER`, rule R131: the second line uses the new `nine` and the old `seven`. -/
def fiLayer (t : Config.SBoxes) (p : FiParts) : FiParts :=
  ⟨fiLayerNine t p, s7 t p.seven ^^^ (fiLayerNine t p).extractLsb' 0 7⟩

/-- `FI.KEYMIX`, rule R133: the top 7 bits of the subkey go to the 7-bit part, its low 9 bits to the 9-bit part. -/
def fiKeyMix (subkey : Word) (p : FiParts) : FiParts :=
  ⟨p.nine ^^^ subkey.extractLsb' 0 9, p.seven ^^^ subkey.extractLsb' 9 7⟩

/-- `FI.JOIN`, rule R135: `seven ‖ nine`. -/
def fiJoin (p : FiParts) : Word := p.seven ++ p.nine

/-- `FI(in, subkey)`, rule R136. -/
def fi (t : Config.SBoxes) (x subkey : Word) : Word :=
  fiJoin (fiLayer t (fiKeyMix subkey (fiLayer t (fiSplit x))))

/-- The two quarters FO and FL work on (rule R34). -/
structure Quarters where
  l : Word
  r : Word
deriving DecidableEq, Repr

/-- `FO.SPLIT` and `FL.SPLIT`, rules R140 and R150. -/
def quarters (x : Half) : Quarters := ⟨hi16 x, lo16 x⟩

/-- `FO.STAGE1`, rule R141. -/
def foStage1 (t : Config.SBoxes) (rk : RoundKeys) (n : RoundIndex) (q : Quarters) : Quarters :=
  ⟨fi t (q.l ^^^ rk.ko1.get n) (rk.ki1.get n) ^^^ q.r, q.r⟩

/-- `FO.STAGE2`, rule R142. -/
def foStage2 (t : Config.SBoxes) (rk : RoundKeys) (n : RoundIndex) (q : Quarters) : Quarters :=
  ⟨q.l, fi t (q.r ^^^ rk.ko2.get n) (rk.ki2.get n) ^^^ q.l⟩

/-- `FO.STAGE3`, rule R143. -/
def foStage3 (t : Config.SBoxes) (rk : RoundKeys) (n : RoundIndex) (q : Quarters) : Quarters :=
  ⟨fi t (q.l ^^^ rk.ko3.get n) (rk.ki3.get n) ^^^ q.r, q.r⟩

/-- `FO.JOIN`, rule R144: the quarters are crossed. -/
def foJoin (q : Quarters) : Half := q.r ++ q.l

/-- `FO(in, n)`, rule R145 (the reading of 90_conflicts.md C2). -/
def fo (t : Config.SBoxes) (rk : RoundKeys) (n : RoundIndex) (x : Half) : Half :=
  foJoin (foStage3 t rk n (foStage2 t rk n (foStage1 t rk n (quarters x))))

/-- `FL.AND`, rule R151: the right quarter is updated from the left. -/
def flAnd (rk : RoundKeys) (n : RoundIndex) (q : Quarters) : Quarters :=
  ⟨q.l, q.r ^^^ rotl16 (q.l &&& rk.kl1.get n) 1⟩

/-- `FL.OR`, rule R152: the left quarter is updated from the new right. -/
def flOr (rk : RoundKeys) (n : RoundIndex) (q : Quarters) : Quarters :=
  ⟨q.l ^^^ rotl16 (q.r ||| rk.kl2.get n) 1, q.r⟩

/-- `FL.JOIN`, rule R153: the quarters are not crossed. -/
def flJoin (q : Quarters) : Half := q.l ++ q.r

/-- `FL(in, n)`, rule R154. -/
def fl (rk : RoundKeys) (n : RoundIndex) (x : Half) : Half := flJoin (flOr rk n (flAnd rk n (quarters x)))

/-- `ROUND(n)`, rules R160 to R163: even rounds run FL then FO from `L` into `R`, odd rounds FO then FL from `R` into
`L` (90_conflicts.md C1 and C4). -/
def round (t : Config.SBoxes) (rk : RoundKeys) (n : RoundIndex) (h : Halves) : Halves :=
  if n.val % 2 = 0 then ⟨h.left, h.right ^^^ fo t rk n (fl rk n h.left)⟩
  else ⟨h.left ^^^ fl rk n (fo t rk n h.right), h.right⟩

/-- The order in which `N` takes its values in `ENCRYPT` (rules R37 and R166). -/
def roundsUp : List RoundIndex := [0, 1, 2, 3, 4, 5, 6, 7]

/-- The order in which `N` takes its values in `DECRYPT` (rules R37 and R166). -/
def roundsDown : List RoundIndex := [7, 6, 5, 4, 3, 2, 1, 0]

/-- The rounds of a block command in the order given (rule R166). -/
def rounds (t : Config.SBoxes) (rk : RoundKeys) (order : List RoundIndex) (h : Halves) : Halves :=
  order.foldl (fun h n => round t rk n h) h

/-- `Enc(rk, b)`, rule R174: the big-step reading of `ENCRYPT`. No exchange before, between or after (rule R168). -/
def enc (t : Config.SBoxes) (rk : RoundKeys) (b : List Byte) : List Byte :=
  resultBytes (rounds t rk roundsUp (blockHalves b))

/-- `Dec(rk, b)`, rule R174: the big-step reading of `DECRYPT`. -/
def dec (t : Config.SBoxes) (rk : RoundKeys) (b : List Byte) : List Byte :=
  resultBytes (rounds t rk roundsDown (blockHalves b))

end Sys2Proof.Machine
end

