-- ==== Sys2Proof/Syntax.lean ====
section
/-! DEFINITION. The four commands of rule R74 of 30_encoding.md, one constructor per row of spec/opcode_table.json. -/

namespace Sys2Proof

/-- A command, as its command word gives it. `ilen` is the number of payload bytes that follow on DIN and `olen`
the number of result bytes the host has room for (rules R71 and R72: plain unsigned counts). -/
inductive Instr where
  /-- `LOADKEY`, opcode 0x1 (rule R120). Its OLEN field is 0. -/
  | loadkey (ilen : Nat)
  /-- `ENCRYPT`, opcode 0x2 (rule R167). -/
  | encrypt (olen ilen : Nat)
  /-- `DECRYPT`, opcode 0x3 (rule R170). -/
  | decrypt (olen ilen : Nat)
  /-- `INFO`, opcode 0x4 (rule R190). Its OLEN and ILEN fields are 0. -/
  | info
deriving DecidableEq, Repr

/-- The number of payload bytes of a command (rule R70: known from its word alone). -/
def Instr.payloadLength : Instr → Nat
  | .loadkey ilen => ilen
  | .encrypt _ ilen => ilen
  | .decrypt _ ilen => ilen
  | .info => 0

/-- The room for result bytes a command declares (rules R71 and R73). -/
def Instr.resultRoom : Instr → Nat
  | .loadkey _ => 0
  | .encrypt olen _ => olen
  | .decrypt olen _ => olen
  | .info => 0

end Sys2Proof
end

