-- ==== Sys2Proof/WellFormed.lean ====
section
/-! DEFINITION. Which commands a command word can carry: `LEN_W` = 8, so lengths are 0 to 255 (rules R6 and R72). -/

namespace Sys2Proof

/-- Rule R72: "A length above 255 cannot be written in a command word". Every length in 0..255 can, the illegal
ones too: a wrong length is a semantic failure of a legal command (rule R75). -/
def Instr.wellFormed : Instr → Bool
  | .loadkey ilen => decide (ilen < 256)
  | .encrypt olen ilen => decide (olen < 256) && decide (ilen < 256)
  | .decrypt olen ilen => decide (olen < 256) && decide (ilen < 256)
  | .info => true

end Sys2Proof
end

