-- ==== Sys2Proof/Decode.lean ====
section
/-! DEFINITION. The decoder of command words, total and rejecting by name (rules R71, R74 to R76 of 30_encoding.md), and
after it the encoder of rule R71. -/

namespace Sys2Proof

/-- `OPC`, bits 31:28 of a command word (rule R71). -/
def opcField (w : CommandWord) : BitVec 4 := w.extractLsb' 28 4

/-- `RSV`, bits 27:16 (rule R71). -/
def rsvField (w : CommandWord) : BitVec 12 := w.extractLsb' 16 12

/-- `OLEN`, bits 15:8 (rule R71). -/
def olenField (w : CommandWord) : Nat := (w.extractLsb' 8 8).toNat

/-- `ILEN`, bits 7:0 (rules R70 and R71): the payload length of every command word, legal or not. -/
def ilenField (w : CommandWord) : Nat := (w.extractLsb' 0 8).toNat

/-- Why a command word is no command (rule R76). All four end in the one status `IllegalCommand`. -/
inductive Illegal where
  /-- `OPC` is 0x0 or 0x5 to 0xF. -/
  | reservedOpcode
  /-- `RSV` is not 0. -/
  | reservedBits
  /-- `OLEN` is not 0 on `LOADKEY` or `INFO`. -/
  | outputLength
  /-- `ILEN` is not 0 on `INFO`. -/
  | payloadLength
deriving DecidableEq, Repr

/-- The decoder of rules R75 and R76. -/
def decode (w : CommandWord) : Except Illegal Instr :=
  if rsvField w ≠ 0 then .error .reservedBits
  else if opcField w = 0x1#4 then
    if olenField w ≠ 0 then .error .outputLength else .ok (.loadkey (ilenField w))
  else if opcField w = 0x2#4 then .ok (.encrypt (olenField w) (ilenField w))
  else if opcField w = 0x3#4 then .ok (.decrypt (olenField w) (ilenField w))
  else if opcField w = 0x4#4 then
    if olenField w ≠ 0 then .error .outputLength
    else if ilenField w ≠ 0 then .error .payloadLength
    else .ok .info
  else .error .reservedOpcode

/-- The opcode of each command (rule R74). -/
def opcodeOf : Instr → BitVec 4
  | .loadkey _ => 0x1#4
  | .encrypt _ _ => 0x2#4
  | .decrypt _ _ => 0x3#4
  | .info => 0x4#4

/-- The command word of a command: `OPC ‖ RSV ‖ OLEN ‖ ILEN` with `RSV` = 0 (rule R71). -/
def encode (i : Instr) : CommandWord :=
  opcodeOf i ++ 0#12 ++ BitVec.ofNat 8 i.resultRoom ++ BitVec.ofNat 8 i.payloadLength

/-- The command the decoder reads from a table row's bits. The command word is one 32-bit value moved in one
transfer, with bit positions and no byte order (rule R57), so the row's bits are the word. -/
def decodeTableWord (nbits w : Nat) : Option Instr :=
  (decode (BitVec.ofNat 32 (w % 2 ^ nbits))).toOption

end Sys2Proof
end

