-- ==== Sys2Proof/Machine/Flags.lean ====
section
/-! DEFINITION. The status codes and the response word, with the engine's one flag `KV` in it (rules R78 to R80 of
30_encoding.md, rule R200 of 60_exceptions.md). -/

namespace Sys2Proof.Machine

/-- The statuses of rule R200. There are exactly five (93_implementation_defined.md U10). -/
inductive Status where
  | ok
  /-- Raised by `LOADKEY` (rule R201). -/
  | invalidKeySize
  /-- Raised by `ENCRYPT` and `DECRYPT` (rule R202). -/
  | invalidBlockLength
  /-- Raised by `ENCRYPT` and `DECRYPT` (rule R203). -/
  | keyNotLoaded
  /-- Raised by the decoder (rule R204). -/
  | illegalCommand
deriving DecidableEq, Repr

/-- The code of a status, rule R200. -/
def Status.code : Status → BitVec 4
  | .ok => 0
  | .invalidKeySize => 1
  | .invalidBlockLength => 2
  | .keyNotLoaded => 3
  | .illegalCommand => 4

/-- Rule R80: `V = status[3:0] ‖ KV ‖ 0b000 ‖ len(Q)[7:0] ‖ info[15:0]`. -/
def responseWord (status : Status) (kv : Bool) (rlen : Nat) (info : BitVec 16) : ResponseWord :=
  status.code ++ BitVec.ofBool kv ++ 0#3 ++ BitVec.ofNat 8 rlen ++ info

/-- `STATUS`, bits 31:28 of a response word (rule R79). -/
def statusField (v : ResponseWord) : BitVec 4 := v.extractLsb' 28 4

/-- `KV`, bit 27 (rule R79). -/
def kvField (v : ResponseWord) : Bool := v.getLsbD 27

/-- Bits 26:24, always 0 (rule R79). -/
def zeroField (v : ResponseWord) : BitVec 3 := v.extractLsb' 24 3

/-- `RLEN`, bits 23:16 (rules R78 and R79). -/
def rlenField (v : ResponseWord) : Nat := (v.extractLsb' 16 8).toNat

/-- `INFO`, bits 15:0 (rule R79). -/
def infoField (v : ResponseWord) : BitVec 16 := v.extractLsb' 0 16

/-- The information the `INFO` command answers: `(BLOCKSIZE << 8) | KEYSIZE` (rules R79 and R190). -/
def sizesInfo : BitVec 16 := BitVec.ofNat 8 Config.blockSize ++ BitVec.ofNat 8 Config.keySize

end Sys2Proof.Machine
end

