-- ==== Sys2Proof/Machine/Ops.lean ====
section
/-! DEFINITION. The named operations the commands share: taking a command word and its payload, sending a response
frame, failing (rule R209 of 60_exceptions.md), and the reset event (rule R230 of 70_reset_and_hazards.md). -/

namespace Sys2Proof.Machine

/-- The result bytes `q` are offered on DOUT. They go out, and the command ends with `SEQ` = `IDLE`, when the host is ready
for them or there are none (rules R37, R60 and R244). -/
def offerBytes (q : List Byte) (s : State) : State :=
  if q.isEmpty || s.doutReady then { s with dout := s.dout ++ q, seq := .idle }
  else { s with seq := .sendBytes q }

/-- The response word `v` is offered on RSP, its result bytes after it (rule R78). -/
def offerWord (v : ResponseWord) (q : List Byte) (s : State) : State :=
  if s.rspReady then offerBytes q { s with rsp := s.rsp ++ [v] }
  else { s with seq := .sendWord v q }

/-- `respond(status, info, Q)`, rules R17 and R80. `KV` is sent as it stands when the command ends (rule R79). -/
def respond (status : Status) (info : BitVec 16) (q : List Byte) (s : State) : State :=
  offerWord (responseWord status s.kv q.length info) q s

/-- `raise E(info)`, rule R209: the whole of taking an exception. The payload is already taken from DIN and discarded, no
register is written, nothing is saved, and the one effect is a response frame without result bytes. There is no return
beside it: rule R212, "there is nothing to return from and no return instruction". -/
def raise (e : Status) (info : BitVec 16) (s : State) : State := respond e info [] s

/-- The engine takes `n` payload bytes from DIN (rule R60: taking a byte from a channel consumes it). -/
def takePayload (n : Nat) (s : State) : State := { s with din := s.din.drop n }

/-- Rules R68 and R244: the engine takes exactly `n` payload bytes from DIN and goes on with them. While the host has not
supplied them it waits in `BUSY`, and no state changes (log entry 2). -/
def withPayload (n : Nat) (s : State) (go : List Byte → State → State) : State :=
  if n ≤ s.din.length then go (s.din.take n) (takePayload n s) else s

/-- A command word that is no command (rules R76 and R204): its `ILEN` payload bytes are taken and discarded, and the command fails with
`IllegalCommand`. -/
def illegalCommand (w : CommandWord) (s : State) : State :=
  withPayload (ilenField w) s fun _ s1 => raise .illegalCommand 0 s1

/-- The engine takes the word `w` from CMD, which leaves `rest`, and is `BUSY` from now on (rule R37). -/
def takeWord (w : CommandWord) (rest : List CommandWord) (s : State) : State :=
  { s with cmd := rest, seq := .awaitPayload w }

/-- The command word the engine runs next, with the state in which it is taken. In `IDLE` it is the oldest word of
CMD, and taking it makes the engine `BUSY` (rules R37, R60 and R62). A word whose payload was not yet there is still
held. -/
def fetch (s : State) : Option (CommandWord × State) :=
  match s.seq with
  | .idle =>
    match s.cmd with
    | [] => none
    | w :: rest => some (w, takeWord w rest s)
  | .awaitPayload w => some (w, s)
  | .sendWord _ _ => none
  | .sendBytes _ => none

/-- What the engine does when it runs no command word: it goes on sending a response frame that is not out yet, or it waits
in `IDLE` (rules R233 and R244). -/
def settle (s : State) : State :=
  match s.seq with
  | .sendWord v q => offerWord v q s
  | .sendBytes q => offerBytes q s
  | .idle => s
  | .awaitPayload _ => s

/-- A reset event, rules R230 to R232: whatever the engine was doing, the start state of rule R248, in which the command
sequence restarts empty (log entry 5). The ROMs are unaffected
(rule R44). The pins are the host's and stay as it drives them. -/
def takeReset (s : State) : State :=
  { State.afterReset (s.resets + 1) with
    rom := s.rom, rstN := s.rstN, rspReady := s.rspReady, doutReady := s.doutReady }

/-- The outputs of rule R67 that say what the engine will transfer next. Rule R230: all four go low while `rst_n` is low. -/
def cmdReady (s : State) : Bool := s.rstN && (s.seq == .idle)

/-- `din_ready` (rules R67 and R230): high while the command in flight lacks payload. -/
def dinReady (s : State) : Bool :=
  s.rstN && (match s.seq with
    | .awaitPayload _ => true
    | _ => false)

/-- `rsp_valid` (rules R67 and R230): high while a response word is offered. -/
def rspValid (s : State) : Bool :=
  s.rstN && (match s.seq with
    | .sendWord _ _ => true
    | _ => false)

/-- `dout_valid` (rules R67 and R230): high while result bytes are offered. -/
def doutValid (s : State) : Bool :=
  s.rstN && (match s.seq with
    | .sendBytes _ => true
    | _ => false)

end Sys2Proof.Machine
end

