-- ==== Sys2Proof/Machine/Block.lean ====
section
/-! DEFINITION. The block commands `ENCRYPT` and `DECRYPT` (rules R167 and R170 of 45_feistel.md). -/

namespace Sys2Proof.Machine

/-- `L` and `R` are loaded from the payload (rule R56). -/
def loadBlock (p : List Byte) (s : State) : State :=
  { s with l := (blockHalves p).left, r := (blockHalves p).right }

/-- One round on the datapath registers (rule R160): `N` takes the value `n` (rule R37) and one of `L`, `R` is written. -/
def roundStep (s : State) (n : RoundIndex) : State :=
  { s with
    n := n
    l := (round s.rom s.rk n ⟨s.l, s.r⟩).left
    r := (round s.rom s.rk n ⟨s.l, s.r⟩).right }

/-- Rules R167 and R170 once the payload is taken, which differ in the order of `N` alone (rule R171). The checks come in the
order of rule R207: both lengths in one check, then `KV`. -/
def blockEffect (order : List RoundIndex) (olen ilen : Nat) (p : List Byte) (s : State) : State :=
  if ilen ≠ Config.blockSize ∨ olen ≠ Config.blockSize then raise .invalidBlockLength 0 s
  else if s.kv = false then raise .keyNotLoaded 0 s
  else
    let done := order.foldl roundStep (loadBlock p s)
    respond .ok 0 (resultBytes ⟨done.l, done.r⟩) done

/-- `ENCRYPT`, rule R167: `N` ascends. -/
def execEncrypt (olen ilen : Nat) (s : State) : Host.Outcome State Fault Refusal :=
  .next (withPayload ilen s (blockEffect roundsUp olen ilen))

/-- `DECRYPT`, rule R170: `N` descends. -/
def execDecrypt (olen ilen : Nat) (s : State) : Host.Outcome State Fault Refusal :=
  .next (withPayload ilen s (blockEffect roundsDown olen ilen))

end Sys2Proof.Machine
end

