-- ==== Sys2Proof/Machine/Info.lean ====
section
/-! DEFINITION. The `INFO` command (rule R190 of 46_info.md). -/

namespace Sys2Proof.Machine

/-- `INFO`, rule R190: no payload, no register written, and the two sizes with `KV` in the answer. -/
def execInfo (s : State) : Host.Outcome State Fault Refusal :=
  .next (withPayload 0 s fun _ s1 => respond .ok sizesInfo [] s1)

end Sys2Proof.Machine
end

