-- ==== Sys2Proof/Machine/KeySchedule.lean ====
section
/-! DEFINITION. The key-schedule generator (41_keyschedule.md, rules R110 to R119). -/

namespace Sys2Proof.Machine

/-- The schedule constants `C[0..7]` (rules R6 and R111). -/
def scheduleConstants : Words8 :=
  ⟨0x0123, 0x4567, 0x89AB, 0xCDEF, 0xFEDC, 0xBA98, 0x7654, 0x3210⟩

/-- Rule R111: `kprime[i] = ukey[i] ^ C[i]`. -/
def kPrime (u : Words8) : Words8 :=
  Words8.ofFn fun i => u.get i ^^^ scheduleConstants.get i

/-- Rules R112 to R119: the 64 round keys from `UK` and `KP`. The index sums are modulo 8 (rule R15). -/
def roundKeysOf (u k : Words8) : RoundKeys :=
  { kl1 := Words8.ofFn fun n => rotl16 (u.get n) 1
    kl2 := Words8.ofFn fun n => k.get (n + 2)
    ko1 := Words8.ofFn fun n => rotl16 (u.get (n + 1)) 5
    ko2 := Words8.ofFn fun n => rotl16 (u.get (n + 5)) 8
    ko3 := Words8.ofFn fun n => rotl16 (u.get (n + 6)) 13
    ki1 := Words8.ofFn fun n => k.get (n + 4)
    ki2 := Words8.ofFn fun n => k.get (n + 3)
    ki3 := Words8.ofFn fun n => k.get (n + 7) }

/-- The whole unit KS (rules R18 and R123): from the key bytes to the RK file. -/
def keySchedule (p : List Byte) : RoundKeys := roundKeysOf (keyWords p) (kPrime (keyWords p))

end Sys2Proof.Machine
end

