-- ==== Sys2Proof/Machine/Key.lean ====
section
/-! DEFINITION. The `LOADKEY` command (rules R120 and R121 of 41_keyschedule.md). -/

namespace Sys2Proof.Machine

/-- The writes of a successful `LOADKEY`: `UK`, `KP`, all 64 round keys and `KV`, as one change (rules R110 to R121). -/
def writeKey (p : List Byte) (s : State) : State :=
  { s with uk := keyWords p, kp := kPrime (keyWords p), rk := keySchedule p, kv := true }

/-- Rule R120 once the payload is taken: the length check, then the schedule and the answer. -/
def loadkeyEffect (ilen : Nat) (p : List Byte) (s : State) : State :=
  if ilen ≠ Config.keySize then raise .invalidKeySize (BitVec.ofNat 16 ilen) s
  else respond .ok 0 [] (writeKey p s)

/-- `LOADKEY`, rule R120. -/
def execLoadkey (ilen : Nat) (s : State) : Host.Outcome State Fault Refusal :=
  .next (withPayload ilen s (loadkeyEffect ilen))

end Sys2Proof.Machine
end

