-- ==== Sys2Proof/Machine/Dispatch.lean ====
section
/-! DEFINITION. One arm per command (rule R74 of 30_encoding.md). -/

namespace Sys2Proof.Machine

def exec (i : Instr) (s : State) : Host.Outcome State Fault Refusal :=
  match i with
  | .loadkey ilen => Sys2Proof.Machine.execLoadkey ilen s
  | .encrypt olen ilen => Sys2Proof.Machine.execEncrypt olen ilen s
  | .decrypt olen ilen => Sys2Proof.Machine.execDecrypt olen ilen s
  | .info => Sys2Proof.Machine.execInfo s

end Sys2Proof.Machine
end

