-- ==== Sys2Proof/Machine/Step.lean ====
section
/-! DEFINITION. One step of the engine: a reset event, or one command run as far as its payload and the host's readiness allow, or a
wait (rules R68, R230, R244 and R248). -/

namespace Sys2Proof.Machine

/-- A taken command word runs: a command by its meaning, any other word as an illegal command (rules R76 and R207). -/
def runWord (w : CommandWord) (s : State) : Host.Outcome State Fault Refusal :=
  match decode w with
  | .ok i => exec i s
  | .error _ => .next (illegalCommand w s)

/-- One step. A low `rst_n` overrides everything (rule R231). -/
def step (s : State) : Host.Outcome State Fault Refusal :=
  if s.rstN = false then .next (takeReset s)
  else
    match fetch s with
    | some (w, s1) => runWord w s1
    | none => .next (settle s)

/-- `s` with the command frame whose word is `w` ahead of everything in CMD and DIN, so that the next step takes it and runs it: the
sequencer idle and `rst_n` high, as the fetch needs (log entry 6). The payload bytes are the bits above the word, the
first byte lowest, so they are zeros where `nbits` is 32. -/
def State.withFetchWord (s : State) (nbits w : Nat) : State :=
  let word := BitVec.ofNat 32 (w % 2 ^ nbits)
  let payload := (List.range (ilenField word)).map fun k =>
    BitVec.ofNat 8 ((w % 2 ^ nbits) >>> (32 + 8 * k))
  { s with rstN := true, seq := .idle, cmd := word :: s.cmd, din := payload ++ s.din }

end Sys2Proof.Machine
end

