-- ==== Sys2Proof/Machine/Chip.lean ====
section
/-! DEFINITION. A chip with `NENG` engines (rule R7 of 00_scope.md, rule R216 of 60_exceptions.md): independent copies of the
engine, each with its own state and channels. -/

namespace Sys2Proof.Machine

/-- A chip right after reset, `neng` engines (rule R216: they "start in the same reset state"). Engine `k` takes unspecified values of its own
(rule R42, log entry 12). -/
def chipReset (neng : Nat := Config.defaultEngines) : List State := (List.range neng).map State.afterReset

/-- Engine `k` makes a step and the others none. A number that no engine has changes nothing. -/
def chipStep (k : Nat) (chip : List State) : Host.Outcome (List State) Fault Refusal :=
  match chip[k]? with
  | none => .next chip
  | some s =>
    match step s with
    | .next t => .next (chip.set k t)
    | .fault e => .fault e
    | .refused e => .refused e

/-- A host's move on the channels or pins of engine `k`. -/
def chipHost (k : Nat) (move : State → State) (chip : List State) : List State := chip.modify k move

end Sys2Proof.Machine
end

