-- ==== Sys2Proof/Machine/Run.lean ====
section
/-! DEFINITION. The host's moves on the channels and the run of rule R248 of 70_reset_and_hazards.md. -/

namespace Sys2Proof.Machine

/-- A response frame (rule R78). -/
structure ResponseFrame where
  word : ResponseWord
  bytes : List Byte
deriving DecidableEq, Repr

/-- An item of a run's input (rule R248): a command frame, or a reset event between two commands. -/
inductive RunItem where
  | frame (w : CommandWord) (p : List Byte)
  | resetEvent
deriving DecidableEq, Repr

/-- Rule R68: a command word followed by exactly `ILEN` bytes. -/
def RunItem.wellFramed : RunItem → Bool
  | .frame w p => decide (p.length = ilenField w)
  | .resetEvent => true

/-- The host sends a command frame (rules R68 and R69): the word on CMD, the payload on DIN. -/
def hostSend (w : CommandWord) (p : List Byte) (s : State) : State :=
  { s with cmd := s.cmd ++ [w], din := s.din ++ p }

/-- The host drives `rst_n` (rules R69 and R230). -/
def hostDriveReset (level : Bool) (s : State) : State := { s with rstN := level }

/-- The host drives `rsp_ready` and `dout_ready` (rules R67 and R244). -/
def hostDriveReady (word bytes : Bool) (s : State) : State := { s with rspReady := word, doutReady := bytes }

/-- The host collects the oldest response frame: one word of RSP and the `RLEN` bytes of DOUT it announces (rules R68 and
R78). None while the frame is not complete. -/
def hostCollect (s : State) : Option (ResponseFrame × State) :=
  match s.rsp with
  | [] => none
  | v :: rest =>
    if rlenField v ≤ s.dout.length then
      some (⟨v, s.dout.take (rlenField v)⟩, { s with rsp := rest, dout := s.dout.drop (rlenField v) })
    else none

/-- One item of a run (rule R248): a command frame is sent, run and its response frame collected, and a reset event emits
nothing. None would mean that the item has no complete outcome. -/
def runItem (item : RunItem) (s : State) : Option (List ResponseFrame × State) :=
  match item with
  | .frame w p =>
    match step (hostSend w p s) with
    | .next t => (hostCollect t).map fun c => ([c.1], c.2)
    | _ => none
  | .resetEvent =>
    match step (hostDriveReset false s) with
    | .next t => some ([], hostDriveReset true t)
    | _ => none

/-- A run (rule R248): the items one at a time in list order, and the list of response frames in order. -/
def run : List RunItem → State → Option (List ResponseFrame × State)
  | [], s => some ([], s)
  | item :: items, s =>
    match runItem item s with
    | some (out, t) => (run items t).map fun c => (out ++ c.1, c.2)
    | none => none

end Sys2Proof.Machine
end

