-- ==== Sys2Proof/Safety.lean ====
section
/-! DEFINITION. The terms the statements use: the big-step reading of rule R174 of 45_feistel.md, the response words of rule
R80 of 30_encoding.md, the invariant of the engine, and what two states must share for a host to see the same. -/

namespace Sys2Proof.Safety

open Machine

/-- The outcome of one command frame in the big-step reading: `KV`, the RK file and the response frame. -/
structure BigResult where
  kv : Bool
  rk : RoundKeys
  answer : ResponseFrame
deriving DecidableEq, Repr

/-- A frame that fails with status `e`: `KV` and the RK file as they were, no result byte (rule R209). -/
def failed (e : Status) (info : BitVec 16) (kv : Bool) (rk : RoundKeys) : BigResult :=
  ⟨kv, rk, ⟨responseWord e kv 0 info, []⟩⟩

/-- A block command in the big-step reading, with `f` for `Enc` or `Dec` (rules R174 and R207). -/
def bigBlock (f : RoundKeys → List Byte → List Byte) (olen ilen : Nat) (kv : Bool) (rk : RoundKeys) (p : List Byte) :
    BigResult :=
  if ilen = 8 ∧ olen = 8 then
    if kv then ⟨true, rk, ⟨0x08080000, f rk p⟩⟩ else failed .keyNotLoaded 0 kv rk
  else failed .invalidBlockLength 0 kv rk

/-- Rules R33 and R174: each command as one function of the two tables, `KV`, the RK file and the command frame. -/
def bigStep (t : Config.SBoxes) (kv : Bool) (rk : RoundKeys) (w : CommandWord) (p : List Byte) : BigResult :=
  match decode w with
  | .error _ => failed .illegalCommand 0 kv rk
  | .ok (.loadkey ilen) =>
    if ilen = 16 then ⟨true, keySchedule p, ⟨0x08000000, []⟩⟩
    else failed .invalidKeySize (BitVec.ofNat 16 ilen) kv rk
  | .ok (.encrypt olen ilen) => bigBlock (enc t) olen ilen kv rk p
  | .ok (.decrypt olen ilen) => bigBlock (dec t) olen ilen kv rk p
  | .ok .info => ⟨kv, rk, ⟨responseWord .ok kv 0 0x0810, []⟩⟩

/-- A run in the big-step reading (rules R247 and R248): the response frames, and `KV` with the RK file at the end. A reset event
clears `KV`, and what it leaves in the RK file is not looked at. -/
def bigRun (t : Config.SBoxes) : List RunItem → Bool → RoundKeys → List ResponseFrame × Bool × RoundKeys
  | [], kv, rk => ([], kv, rk)
  | .frame w p :: items, kv, rk =>
    let b := bigStep t kv rk w p
    let rest := bigRun t items b.kv b.rk
    (b.answer :: rest.1, rest.2)
  | .resetEvent :: items, _, rk => bigRun t items false rk

/-- Between two items of a run (rule R248): `SEQ` = `IDLE`, the four channels empty, no reset, and a host that takes responses. -/
def atRest (s : State) : Prop :=
  s.seq = .idle ∧ s.cmd = [] ∧ s.din = [] ∧ s.rsp = [] ∧ s.dout = [] ∧
    s.rstN = true ∧ s.rspReady = true ∧ s.doutReady = true

/-- The response words the engine can send: the table of rule R80. -/
def legalResponse (v : ResponseWord) : Prop :=
  v ∈ ([0x08000000, 0x08080000, 0x20000000, 0x28000000, 0x30000000, 0x40000000, 0x48000000,
      0x00000810, 0x08000810] : List ResponseWord) ∨
    ∃ k : Nat, k < 256 ∧ k ≠ 16 ∧
      (v = 0x10000000 + BitVec.ofNat 32 k ∨ v = 0x18000000 + BitVec.ofNat 32 k)

/-- Rule R21: `KV` = 1 means that the RK file holds the round keys of one 16-byte key. -/
def keyInv (s : State) : Prop :=
  s.kv = true → ∃ key : List Byte, key.length = 16 ∧ s.rk = keySchedule key

/-- A response frame that is not out yet is a legal one, and announces as many bytes as it has (rules R78 and R80). -/
def pendingLegal : Seq → Prop
  | .idle => True
  | .awaitPayload _ => True
  | .sendWord v q => legalResponse v ∧ rlenField v = q.length
  | .sendBytes q => q.length = 8

/-- Result bytes that a response word already sent announces and that are not out yet. -/
def owedBytes : Seq → Nat
  | .idle => 0
  | .awaitPayload _ => 0
  | .sendWord _ _ => 0
  | .sendBytes q => q.length

/-- The bytes that the response words of a channel announce (rule R78). -/
def announced (vs : List ResponseWord) : Nat := (vs.map rlenField).sum

/-- Rules R78, R80 and R81: every response word sent is one of the table of rule R80, and the bytes on DOUT with those still
owed are exactly the bytes the words announce. -/
def frameInv (s : State) : Prop :=
  (∀ v ∈ s.rsp, legalResponse v) ∧ pendingLegal s.seq ∧ announced s.rsp = s.dout.length + owedBytes s.seq

/-- The invariant of the engine. -/
def inv (s : State) : Prop := keyInv s ∧ frameInv s

/-- Two engines a host cannot tell apart (rules R29, R33 and R42): all but the transient registers agree, the tables too, and the RK
files agree if a key is loaded. -/
def sameToHost (s t : State) : Prop :=
  s.rom = t.rom ∧ s.kv = t.kv ∧ (s.kv = true → s.rk = t.rk) ∧ s.seq = t.seq ∧ s.cmd = t.cmd ∧ s.din = t.din ∧
    s.rsp = t.rsp ∧ s.dout = t.dout ∧ s.rstN = t.rstN ∧ s.rspReady = t.rspReady ∧ s.doutReady = t.doutReady

/-- A host that takes a response frame as soon as it is offered (rule R244). -/
def hostReady (s : State) : Prop := s.rspReady = true ∧ s.doutReady = true

/-- The command the engine runs in this step is a `LOADKEY` of 16 bytes, all of them there (rules R22 and R28). -/
def runsLoadkey (s : State) : Prop :=
  ∃ w s1, fetch s = some (w, s1) ∧ decode w = .ok (.loadkey 16) ∧ 16 ≤ s.din.length

/-- What rule R76 calls an illegal word, in terms of the word as a number: a reserved opcode, a reserved field that is not 0,
a non-zero OLEN on `LOADKEY` or `INFO`, or a non-zero ILEN on `INFO`. -/
def illegalWord (w : Nat) : Prop :=
  (w / 2 ^ 28 = 0 ∨ 5 ≤ w / 2 ^ 28) ∨ w / 2 ^ 16 % 2 ^ 12 ≠ 0 ∨
    ((w / 2 ^ 28 = 1 ∨ w / 2 ^ 28 = 4) ∧ w / 2 ^ 8 % 2 ^ 8 ≠ 0) ∨ (w / 2 ^ 28 = 4 ∧ w % 2 ^ 8 ≠ 0)

/-- Rule R14 on plain numbers, for a 16-bit `v`. -/
def docRotl16 (v k : Nat) : Nat := ((v <<< k) ||| (v >>> (16 - k))) % 2 ^ 16

/-- The nine lines of rule R136 on plain numbers, with the tables `t` as lists of numbers. -/
def docFi (t : Config.SBoxes) (x subkey : Nat) : Nat :=
  let nine := (x >>> 7) &&& 0x1FF
  let seven := x &&& 0x7F
  let nine := romEntry t.s9Rows nine ^^^ seven
  let seven := romEntry t.s7Rows seven ^^^ (nine &&& 0x7F)
  let seven := seven ^^^ (subkey >>> 9)
  let nine := nine ^^^ (subkey &&& 0x1FF)
  let nine := romEntry t.s9Rows nine ^^^ seven
  let seven := romEntry t.s7Rows seven ^^^ (nine &&& 0x7F)
  (seven <<< 9) + nine

/-- The pseudocode of rule R145 on plain numbers. -/
def docFo (t : Config.SBoxes) (rk : RoundKeys) (n : RoundIndex) (x : Nat) : Nat :=
  let l := x >>> 16
  let r := x % 2 ^ 16
  let l := docFi t (l ^^^ (rk.ko1.get n).toNat) (rk.ki1.get n).toNat ^^^ r
  let r := docFi t (r ^^^ (rk.ko2.get n).toNat) (rk.ki2.get n).toNat ^^^ l
  let l := docFi t (l ^^^ (rk.ko3.get n).toNat) (rk.ki3.get n).toNat ^^^ r
  (r <<< 16) ||| l

/-- The pseudocode of rule R154 on plain numbers. -/
def docFl (rk : RoundKeys) (n : RoundIndex) (x : Nat) : Nat :=
  let l := x >>> 16
  let r := x % 2 ^ 16
  let a := l &&& (rk.kl1.get n).toNat
  let r := r ^^^ docRotl16 a 1
  let b := r ||| (rk.kl2.get n).toNat
  let l := l ^^^ docRotl16 b 1
  (l <<< 16) ||| r

end Sys2Proof.Safety
end

