-- ==== Sys2Proof/Certificates/Slice0/Obligations.lean ====
section
/-! DEFINITION. The statements about the engine, one definition each, from the numbered rules of spec/. -/

open Sys2Proof Sys2Proof.Machine Sys2Proof.Safety

/-! ### Command words -/

/-- Rules R70 to R72: no bit of a command's encoding is dropped. -/
def Obligations.DecodeOfEncodeIsTheCommand : Prop :=
  ∀ i : Instr, i.wellFormed = true → decode (encode i) = .ok i

/-- Rules R71 and R75: a word that decodes is the encoding of what it decodes to, so a command has one word. -/
def Obligations.EncodeOfDecodeIsTheWord : Prop :=
  ∀ (w : CommandWord) (i : Instr), decode w = .ok i → i.wellFormed = true ∧ encode i = w

/-- Rule R75: a word selects a command exactly when it matches that row's pattern, the free fields are the lengths, no word
matches two rows, and a word that matches none is illegal. -/
def Obligations.DecodeFollowsMatchAndMask : Prop :=
  (∀ w : CommandWord,
    ((∃ k, decode w = .ok (.loadkey k)) ↔ w &&& 0xFFFFFF00#32 = 0x10000000#32) ∧
    ((∃ m k, decode w = .ok (.encrypt m k)) ↔ w &&& 0xFFFF0000#32 = 0x20000000#32) ∧
    ((∃ m k, decode w = .ok (.decrypt m k)) ↔ w &&& 0xFFFF0000#32 = 0x30000000#32) ∧
    (decode w = .ok .info ↔ w &&& 0xFFFFFFFF#32 = 0x40000000#32) ∧
    (∀ k, decode w = .ok (.loadkey k) → k = w.toNat % 256) ∧
    (∀ m k, decode w = .ok (.encrypt m k) ∨ decode w = .ok (.decrypt m k) →
      m = w.toNat / 256 % 256 ∧ k = w.toNat % 256) ∧
    ((∃ e, decode w = .error e) ↔
      w &&& 0xFFFFFF00#32 ≠ 0x10000000#32 ∧ w &&& 0xFFFF0000#32 ≠ 0x20000000#32 ∧
      w &&& 0xFFFF0000#32 ≠ 0x30000000#32 ∧ w &&& 0xFFFFFFFF#32 ≠ 0x40000000#32)) ∧
  (∀ w : CommandWord,
    ¬(w &&& 0xFFFFFF00#32 = 0x10000000#32 ∧ w &&& 0xFFFF0000#32 = 0x20000000#32) ∧
    ¬(w &&& 0xFFFFFF00#32 = 0x10000000#32 ∧ w &&& 0xFFFF0000#32 = 0x30000000#32) ∧
    ¬(w &&& 0xFFFFFF00#32 = 0x10000000#32 ∧ w &&& 0xFFFFFFFF#32 = 0x40000000#32) ∧
    ¬(w &&& 0xFFFF0000#32 = 0x20000000#32 ∧ w &&& 0xFFFF0000#32 = 0x30000000#32) ∧
    ¬(w &&& 0xFFFF0000#32 = 0x20000000#32 ∧ w &&& 0xFFFFFFFF#32 = 0x40000000#32) ∧
    ¬(w &&& 0xFFFF0000#32 = 0x30000000#32 ∧ w &&& 0xFFFFFFFF#32 = 0x40000000#32)) ∧
  decode 0x10000010#32 = .ok (.loadkey 16) ∧ decode 0x20000808#32 = .ok (.encrypt 8 8) ∧
  decode 0x30000808#32 = .ok (.decrypt 8 8) ∧ decode 0x40000000#32 = .ok .info

/-- Rules R74 to R76: some words written out from the field table of rule R71, and what they are. -/
def Obligations.DecodeOfWrittenOutWords : Prop :=
  decode 0b0001_000000000000_00000000_00001111#32 = .ok (.loadkey 15) ∧
  decode 0b0010_000000000000_00001001_00000111#32 = .ok (.encrypt 9 7) ∧
  decode 0b0011_000000000000_00001000_11111111#32 = .ok (.decrypt 8 255) ∧
  decode 0b0100_000000000000_00000000_00000000#32 = .ok .info ∧
  decode 0b0010_100000000000_00001000_00001000#32 = .error .reservedBits ∧
  decode 0b0001_000000000000_00000001_00010000#32 = .error .outputLength ∧
  decode 0b0100_000000000000_00000000_00000001#32 = .error .payloadLength ∧
  decode 0b0000_000000000000_00000000_00000000#32 = .error .reservedOpcode

/-- Rules R76 and R204: the decoder is total and refuses exactly the illegal words of rule R76, which are those that match no row of rule R75.
Each is answered with `IllegalCommand`, its payload taken and discarded and no register written. -/
def Obligations.IllegalWordsAreAnsweredAndChangeNothing : Prop :=
  (∀ w : CommandWord, (illegalWord w.toNat ↔ ∃ e, decode w = .error e) ∧ (¬illegalWord w.toNat ↔ ∃ i, decode w = .ok i) ∧
    (illegalWord w.toNat ↔
      w &&& 0xFFFFFF00#32 ≠ 0x10000000#32 ∧ w &&& 0xFFFF0000#32 ≠ 0x20000000#32 ∧
      w &&& 0xFFFF0000#32 ≠ 0x30000000#32 ∧ w &&& 0xFFFFFFFF#32 ≠ 0x40000000#32)) ∧
  ∀ (s : State) (w : CommandWord) (rest : List CommandWord), illegalWord w.toNat → s.rstN = true → s.seq = .idle →
    s.cmd = w :: rest → w.toNat % 256 ≤ s.din.length → hostReady s →
    step s = .next
      { s with cmd := rest, din := s.din.drop (w.toNat % 256)
               rsp := s.rsp ++ [if s.kv then 0x48000000 else 0x40000000] }

/-! ### The step -/

/-- Rules R36, R37 and R62: the word the engine takes, or still holds, runs as the command it decodes to. -/
def Obligations.StepRunsTheDecodedCommand : Prop :=
  ∀ (s : State) (w : CommandWord) (i : Instr), s.rstN = true → decode w = .ok i →
    (∀ rest, s.seq = .idle → s.cmd = w :: rest → step s = exec i { s with cmd := rest, seq := .awaitPayload w }) ∧
    (s.seq = .awaitPayload w → step s = exec i s)

/-- Rules R205 and R211: whatever the state, the engine goes on. It has no stop. That a wait is a next state too is the model's choice (log
entry 2). -/
def Obligations.StepAlwaysAnswersNext : Prop :=
  ∀ s : State, ∃ t, step s = .next t

/-- Rules R60, R62 and R240: without a reset, a word is taken from CMD only in `IDLE` and one at a time, and at most one response
word is added, at the end of RSP. -/
def Obligations.CommandsAreTakenOneAtATime : Prop :=
  ∀ s t : State, s.rstN = true → step s = .next t →
    (s.seq ≠ .idle → t.cmd = s.cmd) ∧ (s.seq = .idle → t.cmd = s.cmd.drop 1) ∧
    (t.rsp = s.rsp ∨ ∃ v, t.rsp = s.rsp ++ [v]) ∧ ∃ q, t.dout = s.dout ++ q

/-- Rule R244, the three situations in which the engine waits: no state changes in them. That a payload is taken whole, and that a
wait is a next state, are the model's choices (log entries 2 and 3). -/
def Obligations.WaitingChangesNothing : Prop :=
  ∀ s : State, s.rstN = true →
    (s.seq = .idle → s.cmd = [] → step s = .next s) ∧
    (∀ w, s.seq = .awaitPayload w → s.din.length < w.toNat % 256 → step s = .next s) ∧
    (∀ v q, s.seq = .sendWord v q → s.rspReady = false → step s = .next s) ∧
    (∀ q, s.seq = .sendBytes q → q ≠ [] → s.doutReady = false → step s = .next s) ∧
    (∀ w rest, s.seq = .idle → s.cmd = w :: rest → s.din.length < w.toNat % 256 →
      step s = .next { s with cmd := rest, seq := .awaitPayload w })

/-- Rule R244: waiting changes no result. A payload that comes late, and a host that takes the response word or the result bytes late, lead to the
state that a prompt host gets. -/
def Obligations.SlowHostChangesNoResult : Prop :=
  (∀ (s : State) (w : CommandWord) (rest : List CommandWord) (p : List Byte), s.rstN = true → s.seq = .idle →
    s.cmd = w :: rest → s.din.length < w.toNat % 256 → w.toNat % 256 ≤ (s.din ++ p).length →
    ∃ t, step s = .next t ∧ step { t with din := t.din ++ p } = step { s with din := s.din ++ p }) ∧
  (∀ (s : State) (i : Instr), s.rstN = true → i.payloadLength ≤ s.din.length → s.rspReady = false →
    ∃ t, exec i s = .next t ∧ step { t with rspReady := true } = exec i { s with rspReady := true }) ∧
  (∀ s : State, s.rstN = true → 8 ≤ s.din.length → s.rspReady = true → s.doutReady = false → s.kv = true →
    (∃ t, exec (.encrypt 8 8) s = .next t ∧ t.seq ≠ .idle ∧
      step { t with doutReady := true } = exec (.encrypt 8 8) { s with doutReady := true }) ∧
    (∃ t, exec (.decrypt 8 8) s = .next t ∧ t.seq ≠ .idle ∧
      step { t with doutReady := true } = exec (.decrypt 8 8) { s with doutReady := true }))

/-! ### LOADKEY -/

/-- Rules R110 to R119: a successful `LOADKEY` writes the key words, `kprime` and the eight arrays, each from its source word, offset and
rotation, sets `KV`, and leaves every other register as it was. -/
def Obligations.LoadkeyDerivesTheRoundKeys : Prop :=
  ∀ s : State, 16 ≤ s.din.length → hostReady s →
    ∃ t, exec (.loadkey 16) s = .next t ∧
      t = { s with kv := true, uk := t.uk, kp := t.kp, rk := t.rk, seq := .idle, din := s.din.drop 16
                   rsp := s.rsp ++ [0x08000000] } ∧
      (∀ n : RoundIndex, (t.uk.get n).toNat =
        (s.din.getD (2 * n.val) 0).toNat * 256 + (s.din.getD (2 * n.val + 1) 0).toNat) ∧
      (∀ n : RoundIndex, t.kp.get n = t.uk.get n ^^^
        ([0x0123, 0x4567, 0x89AB, 0xCDEF, 0xFEDC, 0xBA98, 0x7654, 0x3210] : List Word).getD n.val 0) ∧
      ∀ n : RoundIndex,
        let u (k : Nat) : Word := t.uk.get (Fin.ofNat 8 (n.val + k))
        let kp (k : Nat) : Word := t.kp.get (Fin.ofNat 8 (n.val + k))
        t.rk.kl1.get n = (u 0).rotateLeft 1 ∧ t.rk.kl2.get n = kp 2 ∧ t.rk.ko1.get n = (u 1).rotateLeft 5 ∧
        t.rk.ko2.get n = (u 5).rotateLeft 8 ∧ t.rk.ko3.get n = (u 6).rotateLeft 13 ∧ t.rk.ki1.get n = kp 4 ∧
        t.rk.ki2.get n = kp 3 ∧ t.rk.ki3.get n = kp 7

/-- Rule R201: a `LOADKEY` of another length answers `InvalidKeySize` with that length, and changes no register: the key loaded
before stays usable (rule R121). Its payload is taken and not looked at. -/
def Obligations.LoadkeyOfWrongLengthReportsIt : Prop :=
  ∀ (s : State) (ilen : Nat), (Instr.loadkey ilen).wellFormed = true → ilen ≠ 16 → ilen ≤ s.din.length → hostReady s →
    exec (.loadkey ilen) s = .next
      { s with seq := .idle, din := s.din.drop ilen
               rsp := s.rsp ++ [(if s.kv then 0x18000000 else 0x10000000) + BitVec.ofNat 32 ilen] }

/-- Rule R123: the map from key to RK file is one-to-one, and the key words can be read back from `KL1`. -/
def Obligations.KeyScheduleIsOneToOne : Prop :=
  (∀ key : List Byte, ∀ n : RoundIndex, (keyWords key).get n = rotl16 ((keySchedule key).kl1.get n) 15) ∧
  ∀ key key' : List Byte, key.length = 16 → key'.length = 16 → keySchedule key = keySchedule key' → key = key'

/-- Rule R22: without a reset, `KV` is written only by a `LOADKEY` that passes its length check, which sets it. A reset event
clears it. -/
def Obligations.KvIsWrittenOnlyByLoadkeyAndReset : Prop :=
  ∀ s t : State, step s = .next t →
    (s.rstN = false → t.kv = false) ∧
    (s.rstN = true → runsLoadkey s → t.kv = true) ∧
    (s.rstN = true → ¬runsLoadkey s → t.kv = s.kv)

/-- Rule R28: without a reset, the RK file is written only by a `LOADKEY` that passes its length check, which writes all
64 entries and sets `KV`. -/
def Obligations.RoundKeysAreWrittenOnlyByLoadkey : Prop :=
  ∀ s t : State, s.rstN = true → step s = .next t →
    (runsLoadkey s → t.rk = keySchedule (s.din.take 16) ∧ t.kv = true) ∧ (¬runsLoadkey s → t.rk = s.rk)

/-! ### ENCRYPT, DECRYPT and INFO -/

/-- Rule R167: `ENCRYPT` checks both lengths, then `KV`, then runs the rounds 0 to 7 on the two halves of the block and
answers them, most significant byte first. It writes no register but `L`, `R` and `N`. A word with its opcode and a reserved bit
set is illegal. -/
def Obligations.EncryptAnswersEightRoundsUp : Prop :=
  (∀ w : CommandWord, w &&& 0xFFFF0000#32 = 0x20000000#32 →
    decode w = .ok (.encrypt (w.toNat / 256 % 256) (w.toNat % 256))) ∧
  (∀ w : CommandWord, w.toNat / 2 ^ 28 = 2 → w.toNat / 2 ^ 16 % 2 ^ 12 ≠ 0 → ∃ e, decode w = .error e) ∧
  ∀ (s : State) (olen ilen : Nat), (Instr.encrypt olen ilen).wellFormed = true → ilen ≤ s.din.length → hostReady s →
    ∃ t, exec (.encrypt olen ilen) s = .next t ∧
      if ilen ≠ 8 ∨ olen ≠ 8 then
        t = { s with seq := .idle, din := s.din.drop ilen, rsp := s.rsp ++ [if s.kv then 0x28000000 else 0x20000000] }
      else if s.kv = false then
        t = { s with seq := .idle, din := s.din.drop ilen, rsp := s.rsp ++ [0x30000000] }
      else
        ∃ p0 p1 p2 p3 p4 p5 p6 p7 : Byte, s.din.take 8 = [p0, p1, p2, p3, p4, p5, p6, p7] ∧
        let h0 : Halves := ⟨p0 ++ p1 ++ p2 ++ p3, p4 ++ p5 ++ p6 ++ p7⟩
        let h4 := round s.rom s.rk 3 (round s.rom s.rk 2 (round s.rom s.rk 1 (round s.rom s.rk 0 h0)))
        let h := round s.rom s.rk 7 (round s.rom s.rk 6 (round s.rom s.rk 5 (round s.rom s.rk 4 h4)))
        t = { s with seq := .idle, din := s.din.drop ilen, l := h.left, r := h.right, n := 7
                     rsp := s.rsp ++ [0x08080000]
                     dout := s.dout ++
                       [h.left.extractLsb 31 24, h.left.extractLsb 23 16, h.left.extractLsb 15 8,
                        h.left.extractLsb 7 0, h.right.extractLsb 31 24, h.right.extractLsb 23 16,
                        h.right.extractLsb 15 8, h.right.extractLsb 7 0] }

/-- Rule R170: `DECRYPT` makes the same checks and runs the rounds 7 down to 0. -/
def Obligations.DecryptAnswersEightRoundsDown : Prop :=
  (∀ w : CommandWord, w &&& 0xFFFF0000#32 = 0x30000000#32 →
    decode w = .ok (.decrypt (w.toNat / 256 % 256) (w.toNat % 256))) ∧
  (∀ w : CommandWord, w.toNat / 2 ^ 28 = 3 → w.toNat / 2 ^ 16 % 2 ^ 12 ≠ 0 → ∃ e, decode w = .error e) ∧
  ∀ (s : State) (olen ilen : Nat), (Instr.decrypt olen ilen).wellFormed = true → ilen ≤ s.din.length → hostReady s →
    ∃ t, exec (.decrypt olen ilen) s = .next t ∧
      if ilen ≠ 8 ∨ olen ≠ 8 then
        t = { s with seq := .idle, din := s.din.drop ilen, rsp := s.rsp ++ [if s.kv then 0x28000000 else 0x20000000] }
      else if s.kv = false then
        t = { s with seq := .idle, din := s.din.drop ilen, rsp := s.rsp ++ [0x30000000] }
      else
        ∃ p0 p1 p2 p3 p4 p5 p6 p7 : Byte, s.din.take 8 = [p0, p1, p2, p3, p4, p5, p6, p7] ∧
        let h0 : Halves := ⟨p0 ++ p1 ++ p2 ++ p3, p4 ++ p5 ++ p6 ++ p7⟩
        let h4 := round s.rom s.rk 4 (round s.rom s.rk 5 (round s.rom s.rk 6 (round s.rom s.rk 7 h0)))
        let h := round s.rom s.rk 0 (round s.rom s.rk 1 (round s.rom s.rk 2 (round s.rom s.rk 3 h4)))
        t = { s with seq := .idle, din := s.din.drop ilen, l := h.left, r := h.right, n := 0
                     rsp := s.rsp ++ [0x08080000]
                     dout := s.dout ++
                       [h.left.extractLsb 31 24, h.left.extractLsb 23 16, h.left.extractLsb 15 8,
                        h.left.extractLsb 7 0, h.right.extractLsb 31 24, h.right.extractLsb 23 16,
                        h.right.extractLsb 15 8, h.right.extractLsb 7 0] }

/-- Rule R190: `INFO` is the word 0x40000000 alone, answers the two sizes with `KV`, and writes no register. -/
def Obligations.InfoAnswersTheSizes : Prop :=
  (∀ w : CommandWord, (decode w = .ok .info ↔ w = 0x40000000) ∧
    (w.toNat / 2 ^ 28 = 4 → w ≠ 0x40000000 → ∃ e, decode w = .error e)) ∧
  ∀ s : State, hostReady s →
    exec .info s = .next { s with seq := .idle, rsp := s.rsp ++ [if s.kv then 0x08000810 else 0x00000810] }

/-- Rules R160 to R162: the order of the two units, the source half and the target half of each round. -/
def Obligations.RoundFollowsTheParity : Prop :=
  ∀ (t : Config.SBoxes) (rk : RoundKeys) (n : RoundIndex) (h : Halves),
    (n.val ∈ [0, 2, 4, 6] →
      round t rk n h = ⟨h.left, h.right ^^^ fo t rk n (fl rk n h.left)⟩) ∧
    (n.val ∈ [1, 3, 5, 7] →
      round t rk n h = ⟨h.left ^^^ fl rk n (fo t rk n h.right), h.right⟩)

/-- Every round undoes itself, whatever the tables: rule R164, which the spec marks as its own inference from rules R161 and R162. An even one leaves `L` and exclusive-ors into `R` a value
that depends on `L` and the round keys alone. An odd one does so with the halves exchanged. -/
def Obligations.RoundUndoesItself : Prop :=
  ∀ (t : Config.SBoxes) (rk : RoundKeys) (n : RoundIndex) (h : Halves),
    round t rk n (round t rk n h) = h ∧
    (n.val % 2 = 0 → (round t rk n h).left = h.left ∧
      ∀ r', (round t rk n h).right ^^^ h.right = (round t rk n ⟨h.left, r'⟩).right ^^^ r') ∧
    (n.val % 2 = 1 → (round t rk n h).right = h.right ∧
      ∀ l', (round t rk n h).left ^^^ h.left = (round t rk n ⟨l', h.right⟩).left ^^^ l')

/-- On 8-byte blocks `Dec` inverts `Enc` on both sides, so `Enc` is one-to-one and onto, for any RK file and whatever the tables: rule
R175, which the spec marks as its own inference. -/
def Obligations.EncAndDecAreInverse : Prop :=
  ∀ (t : Config.SBoxes) (rk : RoundKeys),
    (∀ b : List Byte, b.length = 8 → (enc t rk b).length = 8 ∧ (dec t rk b).length = 8) ∧
    (∀ b : List Byte, b.length = 8 → dec t rk (enc t rk b) = b ∧ enc t rk (dec t rk b) = b) ∧
    ∀ b b' : List Byte, b.length = 8 → b'.length = 8 → enc t rk b = enc t rk b' → b = b'

/-- An `ENCRYPT` of a block and then, with no `LOADKEY` and no reset between, a `DECRYPT` of the result give the block, and the other
way round: rule R172, which the spec marks as its own inference. Between the two
anything may happen that leaves `KV`, the RK file and the tables as they are (nothing writes the tables: TablesAreNeverWritten). -/
def Obligations.DecryptOfEncryptGivesTheBlock : Prop :=
  ∀ (s : State) (b rest : List Byte), s.kv = true → b.length = 8 → s.din = b ++ rest → hostReady s →
    (∃ c t, c.length = 8 ∧ exec (.encrypt 8 8) s = .next t ∧ t.dout = s.dout ++ c ∧
      ∀ (u : State) (rest' : List Byte), u.rom = t.rom → u.kv = t.kv → u.rk = t.rk → u.din = c ++ rest' → hostReady u →
        ∃ t', exec (.decrypt 8 8) u = .next t' ∧ t'.dout = u.dout ++ b) ∧
    (∃ c t, c.length = 8 ∧ exec (.decrypt 8 8) s = .next t ∧ t.dout = s.dout ++ c ∧
      ∀ (u : State) (rest' : List Byte), u.rom = t.rom → u.kv = t.kv → u.rk = t.rk → u.din = c ++ rest' → hostReady u →
        ∃ t', exec (.encrypt 8 8) u = .next t' ∧ t'.dout = u.dout ++ b)

/-- Rule R14: bit `k` of `v` goes to bit `(k + m) mod 16`, for each rotation amount `m` from 1 to 15. -/
def Obligations.RotationMovesEachBit : Prop :=
  ∀ (v : Word) (m : Nat), 1 ≤ m → m ≤ 15 →
    (∀ k, k < 16 → (rotl16 v m).getLsbD ((k + m) % 16) = v.getLsbD k) ∧
    (rotl16 v m).toNat = ((v.toNat <<< m) ||| (v.toNat >>> (16 - m))) % 2 ^ 16

/-- Rule R56: the byte order of blocks, in and out, as arithmetic. -/
def Obligations.BlockBytesAreBigEndian : Prop :=
  ∀ p0 p1 p2 p3 p4 p5 p6 p7 : Byte,
    let h := blockHalves [p0, p1, p2, p3, p4, p5, p6, p7]
    h.left.toNat = p0.toNat * 2 ^ 24 + p1.toNat * 2 ^ 16 + p2.toNat * 2 ^ 8 + p3.toNat ∧
    h.right.toNat = p4.toNat * 2 ^ 24 + p5.toNat * 2 ^ 16 + p6.toNat * 2 ^ 8 + p7.toNat ∧
    resultBytes h = [p0, p1, p2, p3, p4, p5, p6, p7] ∧
    ∀ k : Halves, resultBytes k =
      [k.left.extractLsb 31 24, k.left.extractLsb 23 16, k.left.extractLsb 15 8, k.left.extractLsb 7 0,
        k.right.extractLsb 31 24, k.right.extractLsb 23 16, k.right.extractLsb 15 8, k.right.extractLsb 7 0]

/-! ### FI, FO and FL -/

/-- Rules R130 to R135, put together as rule R136 does: FI is the document's nine lines on plain numbers. This holds of all tables of the
right sizes. -/
def Obligations.FiIsTheDocumentsArithmetic : Prop :=
  ∀ t : Config.SBoxes, t.wellSized = true → ∀ x subkey : Word, (fi t x subkey).toNat = docFi t x.toNat subkey.toNat

/-- Rules R140 to R144, put together as rule R145 does: FO is the document's pseudocode on plain numbers, its result
crossed, with all tables of the right sizes. -/
def Obligations.FoIsTheDocumentsArithmetic : Prop :=
  ∀ t : Config.SBoxes, t.wellSized = true →
    ∀ (rk : RoundKeys) (n : RoundIndex) (x : Half), (fo t rk n x).toNat = docFo t rk n x.toNat

/-- Rules R150 to R153, put together as rule R154 does: FL is the document's one line on plain numbers, its result not crossed. -/
def Obligations.FlIsTheDocumentsArithmetic : Prop :=
  ∀ (rk : RoundKeys) (n : RoundIndex) (x : Half), (fl rk n x).toNat = docFl rk n x.toNat

/-- Both tables are permutations: rule R104, the spec's own inference from the tables it supplies (log entry 8). -/
def Obligations.TablesArePermutations : Prop :=
  Function.Bijective (s7 sBoxes) ∧ Function.Bijective (s9 sBoxes)

/-- For a fixed subkey FI is one-to-one, a sentence of rule R136 that is the spec's own inference. -/
def Obligations.FiIsOneToOne : Prop :=
  ∀ subkey : Word, Function.Bijective fun x => fi sBoxes x subkey

/-- For fixed round keys FO and FL are one-to-one: rules R146 and R155, the spec's own inferences. -/
def Obligations.FoAndFlAreOneToOne : Prop :=
  ∀ (rk : RoundKeys) (n : RoundIndex), Function.Bijective (fo sBoxes rk n) ∧ Function.Bijective (fl rk n)

/-- The document's three known-answer vectors (95_test_vectors.md section 1.1). -/
def Obligations.KnownAnswersOfTheDocument : Prop :=
  enc sBoxes (keySchedule (0x20#8 :: List.replicate 15 0#8)) (List.replicate 8 0#8) =
    [0x58, 0xC6, 0x76, 0x26, 0x06, 0xAB, 0x28, 0x89] ∧
  enc sBoxes (keySchedule (0x10#8 :: List.replicate 15 0#8)) (List.replicate 8 0#8) =
    [0x2F, 0xAE, 0x2B, 0x25, 0x50, 0x7C, 0x89, 0xC3] ∧
  enc sBoxes (keySchedule (0x08#8 :: List.replicate 15 0#8)) (List.replicate 8 0#8) =
    [0x15, 0xD2, 0x2D, 0xA8, 0x0D, 0x43, 0xCF, 0xEF]

/-! ### Failures -/

/-- Rule R207: the first failing check gives the status: decoding, then the lengths, then `KV`. -/
def Obligations.ChecksComeInOrder : Prop :=
  ∀ (s : State) (w : CommandWord) (rest : List CommandWord), s.rstN = true → s.seq = .idle → s.cmd = w :: rest →
    w.toNat % 256 ≤ s.din.length → hostReady s →
    ∃ t v, step s = .next t ∧ t.rsp = s.rsp ++ [v] ∧
      ((∃ e, decode w = .error e) → statusField v = 4) ∧
      (∀ k, decode w = .ok (.loadkey k) → statusField v = if k ≠ 16 then 1 else 0) ∧
      (∀ m k, decode w = .ok (.encrypt m k) ∨ decode w = .ok (.decrypt m k) →
        statusField v = if k ≠ 8 ∨ m ≠ 8 then 2 else if s.kv = false then 3 else 0) ∧
      (decode w = .ok .info → statusField v = 0)

/-- Rules R81, R209, R210 and R212: every command frame gets one response frame, whose `RLEN` is the number of its bytes, 8
for a block command that succeeds and otherwise 0. Where the status is not `OK`, taking the frame and answering it is all
that happens. -/
def Obligations.FailuresArePrecise : Prop :=
  ∀ (s : State) (w : CommandWord) (rest : List CommandWord), s.rstN = true → s.seq = .idle → s.cmd = w :: rest →
    w.toNat % 256 ≤ s.din.length → hostReady s →
    ∃ t v q, step s = .next t ∧ t.rsp = s.rsp ++ [v] ∧ t.dout = s.dout ++ q ∧ q.length = rlenField v ∧
      (q.length = 0 ∨ q.length = 8) ∧
      (q.length = 8 ↔ statusField v = 0 ∧ ∃ m k, decode w = .ok (.encrypt m k) ∨ decode w = .ok (.decrypt m k)) ∧
      zeroField v = 0 ∧ kvField v = t.kv ∧
      (statusField v ≠ 0 → t = { s with cmd := rest, din := s.din.drop (w.toNat % 256), rsp := s.rsp ++ [v] })

/-! ### Reset -/

/-- Rule R231, with the effect of rule R230 on `KV` and `SEQ`: a reset event takes place in every state, in the middle of a
command too. -/
def Obligations.ResetOverridesEverything : Prop :=
  ∀ s : State, s.rstN = false → ∃ t, step s = .next t ∧ t.kv = false ∧ t.seq = .idle

/-- Rules R230, R232 and R248: a reset event emits nothing, the four outputs stay low while `rst_n` is low, and, as the model reads
rule R248's start state, the four channels are empty (log entry 5). -/
def Obligations.ResetEmitsNothing : Prop :=
  ∀ s : State, s.rstN = false →
    cmdReady s = false ∧ dinReady s = false ∧ rspValid s = false ∧ doutValid s = false ∧
    ∃ t, step s = .next t ∧ t.rsp = [] ∧ t.dout = [] ∧ t.cmd = [] ∧ t.din = [] ∧ t.rstN = false ∧
      cmdReady t = false ∧ dinReady t = false ∧ rspValid t = false ∧ doutValid t = false

/-- Rules R41, R233 and R248: the state right after reset, and that the engine waits in it. -/
def Obligations.ResetStateWaits : Prop :=
  State.reset.kv = false ∧ State.reset.seq = .idle ∧ State.reset.cmd = [] ∧ State.reset.din = [] ∧
  State.reset.rsp = [] ∧ State.reset.dout = [] ∧ cmdReady State.reset = true ∧ step State.reset = .next State.reset

/-! ### Invariants, and what a host can see -/

/-- The invariant holds right after reset. -/
def Obligations.InvariantHoldsAtReset : Prop := inv State.reset

/-- Rules R21, R78, R80 and R81: every step keeps it that `KV` = 1 means a complete set of round keys of one 16-byte key, that every
response word is one of the table of rule R80, and that DOUT holds exactly the bytes the words announce. -/
def Obligations.StepKeepsTheInvariant : Prop :=
  ∀ s t : State, inv s → step s = .next t → inv t

/-- The host's moves on the channels and pins keep the invariant too. -/
def Obligations.HostMovesKeepTheInvariant : Prop :=
  ∀ s : State, inv s →
    (∀ w p, inv (hostSend w p s)) ∧ (∀ b, inv (hostDriveReset b s)) ∧ (∀ a b, inv (hostDriveReady a b s)) ∧
    ∀ f t, hostCollect s = some (f, t) → inv t ∧ legalResponse f.word ∧ f.bytes.length = rlenField f.word

/-- Rules R29, R33, R42 and R43: what the transient registers hold, and what the RK file holds while `KV` = 0, is never
seen: two engines that differ in nothing else go on differing in nothing else. -/
def Obligations.UnspecifiedValuesAreNeverSeen : Prop :=
  ∀ s t : State, sameToHost s t →
    ∃ s' t', step s = .next s' ∧ step t = .next t' ∧ sameToHost s' t'

/-- Rules R33 and R68, and rule R174, the spec's own inference: a step on a command frame is the frame's big-step function of `KV`, the RK
file and the frame. The
engine takes exactly `ILEN` payload bytes and answers exactly one frame. -/
def Obligations.StepIsTheBigStepReading : Prop :=
  ∀ (s : State) (w : CommandWord) (rest : List CommandWord), s.rstN = true → s.seq = .idle → s.cmd = w :: rest →
    ilenField w ≤ s.din.length → hostReady s →
    let b := bigStep s.rom s.kv s.rk w (s.din.take (ilenField w))
    ∃ t, step s = .next t ∧ t.kv = b.kv ∧ t.rk = b.rk ∧ t.seq = .idle ∧ t.cmd = rest ∧
      t.din = s.din.drop (ilenField w) ∧ t.rsp = s.rsp ++ [b.answer.word] ∧ t.dout = s.dout ++ b.answer.bytes ∧
      b.answer.bytes.length = rlenField b.answer.word ∧ t.rstN = s.rstN ∧ t.rspReady = s.rspReady ∧
      t.doutReady = s.doutReady

/-- Rule R62, and rules R247 and R248, the spec's own inferences: every run on well-framed input ends at rest, each command frame with its response frame, in
order, and the response frames are a function of the items, `KV` and, where a key is loaded, the RK file. -/
def Obligations.EveryRunIsTheBigRun : Prop :=
  ∀ (items : List RunItem) (s : State), atRest s → (∀ item ∈ items, item.wellFramed = true) →
    ∃ t, run items s = some ((bigRun s.rom items s.kv s.rk).1, t) ∧ atRest t ∧ t.kv = (bigRun s.rom items s.kv s.rk).2.1 ∧
      (t.kv = true → t.rk = (bigRun s.rom items s.kv s.rk).2.2) ∧
      ∀ rk', s.kv = false → (bigRun s.rom items s.kv rk').1 = (bigRun s.rom items s.kv s.rk).1

/-! ### The tables -/

/-- Rules R7, R44, R51 and R52: the tables an engine runs with are an open parameter that nothing writes, a reset event included, and
after reset they are the default ones. -/
def Obligations.TablesAreNeverWritten : Prop :=
  State.reset.rom = sBoxes ∧ ∀ s t : State, step s = .next t → t.rom = s.rom

/-- Rules R6, R51 and R52: in tables of the right sizes every index names an entry, and the lookup is that entry with no bit lost. -/
def Obligations.LookupsAreTheTableEntries : Prop :=
  sBoxes.wellSized = true ∧
  ∀ t : Config.SBoxes, t.wellSized = true →
    (∀ a : BitVec 7, (t.s7Rows.flatten[a.toNat]?) = some (s7 t a).toNat) ∧
    (∀ a : BitVec 9, (t.s9Rows.flatten[a.toNat]?) = some (s9 t a).toNat)

/-! ### Several engines -/

/-- Rule R216: a chip's engines are independent copies. A step of one engine is its own step, it leaves every other engine as it was, the
steps of two engines may be exchanged, and so does a host's move on one engine's channels leave the others. -/
def Obligations.EnginesAreIndependent : Prop :=
  ∀ (chip : List State) (j k : Nat), j ≠ k →
    (∃ d, chipStep j chip = .next d ∧ d[k]? = chip[k]? ∧
      ∀ s, chip[j]? = some s → ∃ t, step s = .next t ∧ d[j]? = some t) ∧
    (∀ move, (chipHost j move chip)[k]? = chip[k]? ∧ (chipHost j move chip)[j]? = (chip[j]?).map move) ∧
    ∀ d e, chipStep j chip = .next d → chipStep k d = .next e →
      ∃ d', chipStep k chip = .next d' ∧ chipStep j d' = .next e
end

