-- ==== Sys2Proof/Laws/Chip.lean ====
section
/-! SUPPORT. What a step of one engine of a chip can do. -/

namespace Sys2Proof.Machine

/-- There is no such engine, or it makes its step in its own place. -/
theorem chipStep_cases {k : Nat} {chip d : List State} (h : chipStep k chip = .next d) :
    (chip[k]? = none ∧ d = chip) ∨ ∃ s t, chip[k]? = some s ∧ step s = .next t ∧ d = chip.set k t := by
  unfold chipStep at h
  split at h
  · cases h
    exact .inl ⟨by assumption, rfl⟩
  · rename_i s hs
    split at h <;> cases h
    exact .inr ⟨s, _, hs, by assumption, rfl⟩

@[simp] theorem chipReset_length (neng : Nat) : (chipReset neng).length = neng := by simp [chipReset]

end Sys2Proof.Machine
end

