-- ==== Sys2Proof/Laws/Flags.lean ====
section
/-! SUPPORT. The fields of a response word (rule R79). -/

namespace Sys2Proof.Machine

/-- Bit `k` of a response word put together as rule R80 lays it out. -/
theorem getLsbD_responseFields (c : BitVec 4) (f : BitVec 1) (z : BitVec 3) (len : BitVec 8) (i : BitVec 16) (k : Nat) :
    BitVec.getLsbD (w := 32) (c ++ f ++ z ++ len ++ i) k =
      if k < 16 then i.getLsbD k else if k < 24 then len.getLsbD (k - 16)
      else if k < 27 then z.getLsbD (k - 24) else if k < 28 then f.getLsbD (k - 27) else c.getLsbD (k - 28) := by
  change BitVec.getLsbD (w := 4 + 1 + 3 + 8 + 16) (c ++ f ++ z ++ len ++ i) k = _
  simp only [BitVec.getLsbD_append]
  split_ifs <;> first | rfl | omega

variable (st : Status) (kv : Bool) (rlen : Nat) (info : BitVec 16)

@[simp] theorem statusField_responseWord : statusField (responseWord st kv rlen info) = st.code := by
  unfold statusField responseWord
  apply BitVec.eq_of_getLsbD_eq
  intro k hk
  rw [BitVec.getLsbD_extractLsb', getLsbD_responseFields, decide_eq_true hk, Bool.true_and]
  split_ifs <;> first | omega | (congr 1; omega)

@[simp] theorem kvField_responseWord : kvField (responseWord st kv rlen info) = kv := by
  unfold kvField responseWord
  rw [getLsbD_responseFields]
  cases kv <;> rfl

@[simp] theorem zeroField_responseWord : zeroField (responseWord st kv rlen info) = 0 := by
  unfold zeroField responseWord
  apply BitVec.eq_of_getLsbD_eq
  intro k hk
  rw [BitVec.getLsbD_extractLsb', getLsbD_responseFields, decide_eq_true hk, Bool.true_and]
  split_ifs <;> first | omega | simp

theorem rlenField_responseWord (h : rlen < 256) : rlenField (responseWord st kv rlen info) = rlen := by
  have : BitVec.extractLsb' 16 8 (responseWord st kv rlen info) = BitVec.ofNat 8 rlen := by
    unfold responseWord
    apply BitVec.eq_of_getLsbD_eq
    intro k hk
    rw [BitVec.getLsbD_extractLsb', getLsbD_responseFields, decide_eq_true hk, Bool.true_and]
    split_ifs <;> first | omega | (congr 1; omega)
  rw [rlenField, this, BitVec.toNat_ofNat, Nat.mod_eq_of_lt h]

@[simp] theorem infoField_responseWord : infoField (responseWord st kv rlen info) = info := by
  unfold infoField responseWord
  apply BitVec.eq_of_getLsbD_eq
  intro k hk
  rw [BitVec.getLsbD_extractLsb', getLsbD_responseFields, decide_eq_true hk, Bool.true_and]
  split_ifs <;> first | omega | simp

end Sys2Proof.Machine
end

