-- ==== Sys2Proof/Laws/State.lean ====
section
/-! SUPPORT. Each named update of the state, field by field. -/

namespace Sys2Proof.Machine

@[simp] theorem takePayload_rom (k : Nat) (s : State) : (takePayload k s).rom = s.rom := rfl
@[simp] theorem takePayload_kv (k : Nat) (s : State) : (takePayload k s).kv = s.kv := rfl
@[simp] theorem takePayload_rk (k : Nat) (s : State) : (takePayload k s).rk = s.rk := rfl
@[simp] theorem takePayload_l (k : Nat) (s : State) : (takePayload k s).l = s.l := rfl
@[simp] theorem takePayload_r (k : Nat) (s : State) : (takePayload k s).r = s.r := rfl
@[simp] theorem takePayload_n (k : Nat) (s : State) : (takePayload k s).n = s.n := rfl
@[simp] theorem takePayload_uk (k : Nat) (s : State) : (takePayload k s).uk = s.uk := rfl
@[simp] theorem takePayload_kp (k : Nat) (s : State) : (takePayload k s).kp = s.kp := rfl
@[simp] theorem takePayload_seq (k : Nat) (s : State) : (takePayload k s).seq = s.seq := rfl
@[simp] theorem takePayload_cmd (k : Nat) (s : State) : (takePayload k s).cmd = s.cmd := rfl
@[simp] theorem takePayload_din (k : Nat) (s : State) : (takePayload k s).din = s.din.drop k := rfl
@[simp] theorem takePayload_rsp (k : Nat) (s : State) : (takePayload k s).rsp = s.rsp := rfl
@[simp] theorem takePayload_dout (k : Nat) (s : State) : (takePayload k s).dout = s.dout := rfl
@[simp] theorem takePayload_rstN (k : Nat) (s : State) : (takePayload k s).rstN = s.rstN := rfl
@[simp] theorem takePayload_rspReady (k : Nat) (s : State) : (takePayload k s).rspReady = s.rspReady := rfl
@[simp] theorem takePayload_doutReady (k : Nat) (s : State) : (takePayload k s).doutReady = s.doutReady := rfl
@[simp] theorem takePayload_resets (k : Nat) (s : State) : (takePayload k s).resets = s.resets := rfl

@[simp] theorem takeWord_rom (w : CommandWord) (rest : List CommandWord) (s : State) : (takeWord w rest s).rom = s.rom := rfl
@[simp] theorem takeWord_kv (w : CommandWord) (rest : List CommandWord) (s : State) : (takeWord w rest s).kv = s.kv := rfl
@[simp] theorem takeWord_rk (w : CommandWord) (rest : List CommandWord) (s : State) : (takeWord w rest s).rk = s.rk := rfl
@[simp] theorem takeWord_l (w : CommandWord) (rest : List CommandWord) (s : State) : (takeWord w rest s).l = s.l := rfl
@[simp] theorem takeWord_r (w : CommandWord) (rest : List CommandWord) (s : State) : (takeWord w rest s).r = s.r := rfl
@[simp] theorem takeWord_n (w : CommandWord) (rest : List CommandWord) (s : State) : (takeWord w rest s).n = s.n := rfl
@[simp] theorem takeWord_uk (w : CommandWord) (rest : List CommandWord) (s : State) : (takeWord w rest s).uk = s.uk := rfl
@[simp] theorem takeWord_kp (w : CommandWord) (rest : List CommandWord) (s : State) : (takeWord w rest s).kp = s.kp := rfl
@[simp] theorem takeWord_seq (w : CommandWord) (rest : List CommandWord) (s : State) : (takeWord w rest s).seq = .awaitPayload w := rfl
@[simp] theorem takeWord_cmd (w : CommandWord) (rest : List CommandWord) (s : State) : (takeWord w rest s).cmd = rest := rfl
@[simp] theorem takeWord_din (w : CommandWord) (rest : List CommandWord) (s : State) : (takeWord w rest s).din = s.din := rfl
@[simp] theorem takeWord_rsp (w : CommandWord) (rest : List CommandWord) (s : State) : (takeWord w rest s).rsp = s.rsp := rfl
@[simp] theorem takeWord_dout (w : CommandWord) (rest : List CommandWord) (s : State) : (takeWord w rest s).dout = s.dout := rfl
@[simp] theorem takeWord_rstN (w : CommandWord) (rest : List CommandWord) (s : State) : (takeWord w rest s).rstN = s.rstN := rfl
@[simp] theorem takeWord_rspReady (w : CommandWord) (rest : List CommandWord) (s : State) : (takeWord w rest s).rspReady = s.rspReady := rfl
@[simp] theorem takeWord_doutReady (w : CommandWord) (rest : List CommandWord) (s : State) : (takeWord w rest s).doutReady = s.doutReady := rfl
@[simp] theorem takeWord_resets (w : CommandWord) (rest : List CommandWord) (s : State) : (takeWord w rest s).resets = s.resets := rfl

@[simp] theorem writeKey_rom (p : List Byte) (s : State) : (writeKey p s).rom = s.rom := rfl
@[simp] theorem writeKey_kv (p : List Byte) (s : State) : (writeKey p s).kv = true := rfl
@[simp] theorem writeKey_rk (p : List Byte) (s : State) : (writeKey p s).rk = keySchedule p := rfl
@[simp] theorem writeKey_l (p : List Byte) (s : State) : (writeKey p s).l = s.l := rfl
@[simp] theorem writeKey_r (p : List Byte) (s : State) : (writeKey p s).r = s.r := rfl
@[simp] theorem writeKey_n (p : List Byte) (s : State) : (writeKey p s).n = s.n := rfl
@[simp] theorem writeKey_uk (p : List Byte) (s : State) : (writeKey p s).uk = keyWords p := rfl
@[simp] theorem writeKey_kp (p : List Byte) (s : State) : (writeKey p s).kp = kPrime (keyWords p) := rfl
@[simp] theorem writeKey_seq (p : List Byte) (s : State) : (writeKey p s).seq = s.seq := rfl
@[simp] theorem writeKey_cmd (p : List Byte) (s : State) : (writeKey p s).cmd = s.cmd := rfl
@[simp] theorem writeKey_din (p : List Byte) (s : State) : (writeKey p s).din = s.din := rfl
@[simp] theorem writeKey_rsp (p : List Byte) (s : State) : (writeKey p s).rsp = s.rsp := rfl
@[simp] theorem writeKey_dout (p : List Byte) (s : State) : (writeKey p s).dout = s.dout := rfl
@[simp] theorem writeKey_rstN (p : List Byte) (s : State) : (writeKey p s).rstN = s.rstN := rfl
@[simp] theorem writeKey_rspReady (p : List Byte) (s : State) : (writeKey p s).rspReady = s.rspReady := rfl
@[simp] theorem writeKey_doutReady (p : List Byte) (s : State) : (writeKey p s).doutReady = s.doutReady := rfl
@[simp] theorem writeKey_resets (p : List Byte) (s : State) : (writeKey p s).resets = s.resets := rfl

@[simp] theorem loadBlock_rom (p : List Byte) (s : State) : (loadBlock p s).rom = s.rom := rfl
@[simp] theorem loadBlock_kv (p : List Byte) (s : State) : (loadBlock p s).kv = s.kv := rfl
@[simp] theorem loadBlock_rk (p : List Byte) (s : State) : (loadBlock p s).rk = s.rk := rfl
@[simp] theorem loadBlock_l (p : List Byte) (s : State) : (loadBlock p s).l = (blockHalves p).left := rfl
@[simp] theorem loadBlock_r (p : List Byte) (s : State) : (loadBlock p s).r = (blockHalves p).right := rfl
@[simp] theorem loadBlock_n (p : List Byte) (s : State) : (loadBlock p s).n = s.n := rfl
@[simp] theorem loadBlock_uk (p : List Byte) (s : State) : (loadBlock p s).uk = s.uk := rfl
@[simp] theorem loadBlock_kp (p : List Byte) (s : State) : (loadBlock p s).kp = s.kp := rfl
@[simp] theorem loadBlock_seq (p : List Byte) (s : State) : (loadBlock p s).seq = s.seq := rfl
@[simp] theorem loadBlock_cmd (p : List Byte) (s : State) : (loadBlock p s).cmd = s.cmd := rfl
@[simp] theorem loadBlock_din (p : List Byte) (s : State) : (loadBlock p s).din = s.din := rfl
@[simp] theorem loadBlock_rsp (p : List Byte) (s : State) : (loadBlock p s).rsp = s.rsp := rfl
@[simp] theorem loadBlock_dout (p : List Byte) (s : State) : (loadBlock p s).dout = s.dout := rfl
@[simp] theorem loadBlock_rstN (p : List Byte) (s : State) : (loadBlock p s).rstN = s.rstN := rfl
@[simp] theorem loadBlock_rspReady (p : List Byte) (s : State) : (loadBlock p s).rspReady = s.rspReady := rfl
@[simp] theorem loadBlock_doutReady (p : List Byte) (s : State) : (loadBlock p s).doutReady = s.doutReady := rfl
@[simp] theorem loadBlock_resets (p : List Byte) (s : State) : (loadBlock p s).resets = s.resets := rfl

@[simp] theorem roundStep_rom (s : State) (n : RoundIndex) : (roundStep s n).rom = s.rom := rfl
@[simp] theorem roundStep_kv (s : State) (n : RoundIndex) : (roundStep s n).kv = s.kv := rfl
@[simp] theorem roundStep_rk (s : State) (n : RoundIndex) : (roundStep s n).rk = s.rk := rfl
@[simp] theorem roundStep_l (s : State) (n : RoundIndex) : (roundStep s n).l = (round s.rom s.rk n ⟨s.l, s.r⟩).left := rfl
@[simp] theorem roundStep_r (s : State) (n : RoundIndex) : (roundStep s n).r = (round s.rom s.rk n ⟨s.l, s.r⟩).right := rfl
@[simp] theorem roundStep_n (s : State) (n : RoundIndex) : (roundStep s n).n = n := rfl
@[simp] theorem roundStep_uk (s : State) (n : RoundIndex) : (roundStep s n).uk = s.uk := rfl
@[simp] theorem roundStep_kp (s : State) (n : RoundIndex) : (roundStep s n).kp = s.kp := rfl
@[simp] theorem roundStep_seq (s : State) (n : RoundIndex) : (roundStep s n).seq = s.seq := rfl
@[simp] theorem roundStep_cmd (s : State) (n : RoundIndex) : (roundStep s n).cmd = s.cmd := rfl
@[simp] theorem roundStep_din (s : State) (n : RoundIndex) : (roundStep s n).din = s.din := rfl
@[simp] theorem roundStep_rsp (s : State) (n : RoundIndex) : (roundStep s n).rsp = s.rsp := rfl
@[simp] theorem roundStep_dout (s : State) (n : RoundIndex) : (roundStep s n).dout = s.dout := rfl
@[simp] theorem roundStep_rstN (s : State) (n : RoundIndex) : (roundStep s n).rstN = s.rstN := rfl
@[simp] theorem roundStep_rspReady (s : State) (n : RoundIndex) : (roundStep s n).rspReady = s.rspReady := rfl
@[simp] theorem roundStep_doutReady (s : State) (n : RoundIndex) : (roundStep s n).doutReady = s.doutReady := rfl
@[simp] theorem roundStep_resets (s : State) (n : RoundIndex) : (roundStep s n).resets = s.resets := rfl

@[simp] theorem takeReset_rom (s : State) : (takeReset s).rom = s.rom := rfl
@[simp] theorem takeReset_kv (s : State) : (takeReset s).kv = false := rfl
@[simp] theorem takeReset_rk (s : State) : (takeReset s).rk = RoundKeys.unspecified (s.resets + 1) := rfl
@[simp] theorem takeReset_l (s : State) : (takeReset s).l = Config.resetHalf .l (s.resets + 1) := rfl
@[simp] theorem takeReset_r (s : State) : (takeReset s).r = Config.resetHalf .r (s.resets + 1) := rfl
@[simp] theorem takeReset_n (s : State) : (takeReset s).n = Config.resetIndex (s.resets + 1) := rfl
@[simp] theorem takeReset_uk (s : State) : (takeReset s).uk = Config.resetWords .uk (s.resets + 1) := rfl
@[simp] theorem takeReset_kp (s : State) : (takeReset s).kp = Config.resetWords .kp (s.resets + 1) := rfl
@[simp] theorem takeReset_seq (s : State) : (takeReset s).seq = .idle := rfl
@[simp] theorem takeReset_cmd (s : State) : (takeReset s).cmd = [] := rfl
@[simp] theorem takeReset_din (s : State) : (takeReset s).din = [] := rfl
@[simp] theorem takeReset_rsp (s : State) : (takeReset s).rsp = [] := rfl
@[simp] theorem takeReset_dout (s : State) : (takeReset s).dout = [] := rfl
@[simp] theorem takeReset_rstN (s : State) : (takeReset s).rstN = s.rstN := rfl
@[simp] theorem takeReset_rspReady (s : State) : (takeReset s).rspReady = s.rspReady := rfl
@[simp] theorem takeReset_doutReady (s : State) : (takeReset s).doutReady = s.doutReady := rfl
@[simp] theorem takeReset_resets (s : State) : (takeReset s).resets = s.resets + 1 := rfl

@[simp] theorem hostSend_rom (w : CommandWord) (p : List Byte) (s : State) : (hostSend w p s).rom = s.rom := rfl
@[simp] theorem hostSend_kv (w : CommandWord) (p : List Byte) (s : State) : (hostSend w p s).kv = s.kv := rfl
@[simp] theorem hostSend_rk (w : CommandWord) (p : List Byte) (s : State) : (hostSend w p s).rk = s.rk := rfl
@[simp] theorem hostSend_l (w : CommandWord) (p : List Byte) (s : State) : (hostSend w p s).l = s.l := rfl
@[simp] theorem hostSend_r (w : CommandWord) (p : List Byte) (s : State) : (hostSend w p s).r = s.r := rfl
@[simp] theorem hostSend_n (w : CommandWord) (p : List Byte) (s : State) : (hostSend w p s).n = s.n := rfl
@[simp] theorem hostSend_uk (w : CommandWord) (p : List Byte) (s : State) : (hostSend w p s).uk = s.uk := rfl
@[simp] theorem hostSend_kp (w : CommandWord) (p : List Byte) (s : State) : (hostSend w p s).kp = s.kp := rfl
@[simp] theorem hostSend_seq (w : CommandWord) (p : List Byte) (s : State) : (hostSend w p s).seq = s.seq := rfl
@[simp] theorem hostSend_cmd (w : CommandWord) (p : List Byte) (s : State) : (hostSend w p s).cmd = s.cmd ++ [w] := rfl
@[simp] theorem hostSend_din (w : CommandWord) (p : List Byte) (s : State) : (hostSend w p s).din = s.din ++ p := rfl
@[simp] theorem hostSend_rsp (w : CommandWord) (p : List Byte) (s : State) : (hostSend w p s).rsp = s.rsp := rfl
@[simp] theorem hostSend_dout (w : CommandWord) (p : List Byte) (s : State) : (hostSend w p s).dout = s.dout := rfl
@[simp] theorem hostSend_rstN (w : CommandWord) (p : List Byte) (s : State) : (hostSend w p s).rstN = s.rstN := rfl
@[simp] theorem hostSend_rspReady (w : CommandWord) (p : List Byte) (s : State) : (hostSend w p s).rspReady = s.rspReady := rfl
@[simp] theorem hostSend_doutReady (w : CommandWord) (p : List Byte) (s : State) : (hostSend w p s).doutReady = s.doutReady := rfl
@[simp] theorem hostSend_resets (w : CommandWord) (p : List Byte) (s : State) : (hostSend w p s).resets = s.resets := rfl

@[simp] theorem hostDriveReset_rom (b : Bool) (s : State) : (hostDriveReset b s).rom = s.rom := rfl
@[simp] theorem hostDriveReset_kv (b : Bool) (s : State) : (hostDriveReset b s).kv = s.kv := rfl
@[simp] theorem hostDriveReset_rk (b : Bool) (s : State) : (hostDriveReset b s).rk = s.rk := rfl
@[simp] theorem hostDriveReset_l (b : Bool) (s : State) : (hostDriveReset b s).l = s.l := rfl
@[simp] theorem hostDriveReset_r (b : Bool) (s : State) : (hostDriveReset b s).r = s.r := rfl
@[simp] theorem hostDriveReset_n (b : Bool) (s : State) : (hostDriveReset b s).n = s.n := rfl
@[simp] theorem hostDriveReset_uk (b : Bool) (s : State) : (hostDriveReset b s).uk = s.uk := rfl
@[simp] theorem hostDriveReset_kp (b : Bool) (s : State) : (hostDriveReset b s).kp = s.kp := rfl
@[simp] theorem hostDriveReset_seq (b : Bool) (s : State) : (hostDriveReset b s).seq = s.seq := rfl
@[simp] theorem hostDriveReset_cmd (b : Bool) (s : State) : (hostDriveReset b s).cmd = s.cmd := rfl
@[simp] theorem hostDriveReset_din (b : Bool) (s : State) : (hostDriveReset b s).din = s.din := rfl
@[simp] theorem hostDriveReset_rsp (b : Bool) (s : State) : (hostDriveReset b s).rsp = s.rsp := rfl
@[simp] theorem hostDriveReset_dout (b : Bool) (s : State) : (hostDriveReset b s).dout = s.dout := rfl
@[simp] theorem hostDriveReset_rstN (b : Bool) (s : State) : (hostDriveReset b s).rstN = b := rfl
@[simp] theorem hostDriveReset_rspReady (b : Bool) (s : State) : (hostDriveReset b s).rspReady = s.rspReady := rfl
@[simp] theorem hostDriveReset_doutReady (b : Bool) (s : State) : (hostDriveReset b s).doutReady = s.doutReady := rfl
@[simp] theorem hostDriveReset_resets (b : Bool) (s : State) : (hostDriveReset b s).resets = s.resets := rfl

@[simp] theorem hostDriveReady_rom (a b : Bool) (s : State) : (hostDriveReady a b s).rom = s.rom := rfl
@[simp] theorem hostDriveReady_kv (a b : Bool) (s : State) : (hostDriveReady a b s).kv = s.kv := rfl
@[simp] theorem hostDriveReady_rk (a b : Bool) (s : State) : (hostDriveReady a b s).rk = s.rk := rfl
@[simp] theorem hostDriveReady_l (a b : Bool) (s : State) : (hostDriveReady a b s).l = s.l := rfl
@[simp] theorem hostDriveReady_r (a b : Bool) (s : State) : (hostDriveReady a b s).r = s.r := rfl
@[simp] theorem hostDriveReady_n (a b : Bool) (s : State) : (hostDriveReady a b s).n = s.n := rfl
@[simp] theorem hostDriveReady_uk (a b : Bool) (s : State) : (hostDriveReady a b s).uk = s.uk := rfl
@[simp] theorem hostDriveReady_kp (a b : Bool) (s : State) : (hostDriveReady a b s).kp = s.kp := rfl
@[simp] theorem hostDriveReady_seq (a b : Bool) (s : State) : (hostDriveReady a b s).seq = s.seq := rfl
@[simp] theorem hostDriveReady_cmd (a b : Bool) (s : State) : (hostDriveReady a b s).cmd = s.cmd := rfl
@[simp] theorem hostDriveReady_din (a b : Bool) (s : State) : (hostDriveReady a b s).din = s.din := rfl
@[simp] theorem hostDriveReady_rsp (a b : Bool) (s : State) : (hostDriveReady a b s).rsp = s.rsp := rfl
@[simp] theorem hostDriveReady_dout (a b : Bool) (s : State) : (hostDriveReady a b s).dout = s.dout := rfl
@[simp] theorem hostDriveReady_rstN (a b : Bool) (s : State) : (hostDriveReady a b s).rstN = s.rstN := rfl
@[simp] theorem hostDriveReady_rspReady (a b : Bool) (s : State) : (hostDriveReady a b s).rspReady = a := rfl
@[simp] theorem hostDriveReady_doutReady (a b : Bool) (s : State) : (hostDriveReady a b s).doutReady = b := rfl
@[simp] theorem hostDriveReady_resets (a b : Bool) (s : State) : (hostDriveReady a b s).resets = s.resets := rfl

end Sys2Proof.Machine
end

