-- ==== Sys2Proof/Laws/Ops.lean ====
section
/-! SUPPORT. For each shared operation, what it can do, said once. -/

namespace Sys2Proof.Machine

section sending

variable (st : Status) (info : BitVec 16) (v : ResponseWord) (q : List Byte) (s : State)

/-- Result bytes are all out and the command is over, or they are all still offered. -/
theorem offerBytes_cases :
    ((q = [] ∨ s.doutReady = true) ∧ offerBytes q s = { s with dout := s.dout ++ q, seq := .idle }) ∨
    (q ≠ [] ∧ s.doutReady = false ∧ offerBytes q s = { s with seq := .sendBytes q }) := by
  unfold offerBytes
  cases hd : s.doutReady <;> cases q <;> simp

theorem offerBytes_ready (h : s.doutReady = true) :
    offerBytes q s = { s with dout := s.dout ++ q, seq := .idle } := by simp [offerBytes, h]

@[simp] theorem offerBytes_nil : offerBytes [] s = { s with seq := .idle } := by simp [offerBytes]

/-- The response word goes out with its bytes after it, or the whole frame is still offered. -/
theorem offerWord_cases :
    (s.rspReady = true ∧ offerWord v q s = offerBytes q { s with rsp := s.rsp ++ [v] }) ∨
    (s.rspReady = false ∧ offerWord v q s = { s with seq := .sendWord v q }) := by
  unfold offerWord
  cases hr : s.rspReady <;> simp

theorem offerWord_ready (hr : s.rspReady = true) (hd : s.doutReady = true) :
    offerWord v q s = { s with rsp := s.rsp ++ [v], dout := s.dout ++ q, seq := .idle } := by
  simp [offerWord, offerBytes, hr, hd]

/-- A frame goes out whole to a host that is ready (rule R78). -/
theorem respond_ready (hr : s.rspReady = true) (hd : s.doutReady = true) :
    respond st info q s =
      { s with rsp := s.rsp ++ [responseWord st s.kv q.length info], dout := s.dout ++ q, seq := .idle } := by
  simp [respond, offerWord_ready, hr, hd]

/-- A failure answers with a frame without bytes (rule R209). -/
theorem raise_ready (hr : s.rspReady = true) :
    raise st info s = { s with rsp := s.rsp ++ [responseWord st s.kv 0 info], seq := .idle } := by
  simp [raise, respond, offerWord, hr]

/-- Sending a frame writes RSP, DOUT and `SEQ` alone. -/
theorem offerBytes_frame : ∃ d e, offerBytes q s = { s with dout := d, seq := e } := by
  rcases offerBytes_cases q s with ⟨-, h⟩ | ⟨-, -, h⟩ <;> exact ⟨_, _, h⟩

theorem offerWord_frame : ∃ a d e, offerWord v q s = { s with rsp := a, dout := d, seq := e } := by
  rcases offerWord_cases v q s with ⟨-, h⟩ | ⟨-, h⟩
  · obtain ⟨d, e, hb⟩ := offerBytes_frame q { s with rsp := s.rsp ++ [v] }
    exact ⟨_, d, e, h.trans hb⟩
  · exact ⟨s.rsp, s.dout, _, h⟩

theorem respond_frame : ∃ a d e, respond st info q s = { s with rsp := a, dout := d, seq := e } :=
  offerWord_frame _ q s

theorem raise_frame : ∃ a d e, raise st info s = { s with rsp := a, dout := d, seq := e } :=
  respond_frame st info [] s

@[simp] theorem respond_kv : (respond st info q s).kv = s.kv := by
  obtain ⟨a, d, e, h⟩ := respond_frame st info q s
  rw [h]

@[simp] theorem respond_rom : (respond st info q s).rom = s.rom := by
  obtain ⟨a, d, e, h⟩ := respond_frame st info q s
  rw [h]

@[simp] theorem respond_rk : (respond st info q s).rk = s.rk := by
  obtain ⟨a, d, e, h⟩ := respond_frame st info q s
  rw [h]

@[simp] theorem respond_cmd : (respond st info q s).cmd = s.cmd := by
  obtain ⟨a, d, e, h⟩ := respond_frame st info q s
  rw [h]

@[simp] theorem respond_din : (respond st info q s).din = s.din := by
  obtain ⟨a, d, e, h⟩ := respond_frame st info q s
  rw [h]

end sending

section payload

variable (k : Nat) (s : State) (go : List Byte → State → State)

/-- The payload is taken whole and the command goes on, or the engine waits (rule R68). -/
theorem withPayload_cases :
    (k ≤ s.din.length ∧ withPayload k s go = go (s.din.take k) (takePayload k s)) ∨
    (s.din.length < k ∧ withPayload k s go = s) := by
  unfold withPayload
  split
  · exact .inl ⟨by assumption, rfl⟩
  · exact .inr ⟨by omega, rfl⟩

theorem withPayload_there (h : k ≤ s.din.length) :
    withPayload k s go = go (s.din.take k) (takePayload k s) := if_pos h

theorem withPayload_waits (h : s.din.length < k) : withPayload k s go = s := if_neg (by omega)

@[simp] theorem withPayload_zero : withPayload 0 s go = go [] s := by
  simp [withPayload, takePayload]

end payload

section commands

variable (p : List Byte) (s : State)

/-- `LOADKEY` fails on its length or writes the key (rule R120). -/
theorem loadkeyEffect_cases (ilen : Nat) :
    (ilen = 16 ∧ loadkeyEffect ilen p s = respond .ok 0 [] (writeKey p s)) ∨
    (ilen ≠ 16 ∧ loadkeyEffect ilen p s = raise .invalidKeySize (BitVec.ofNat 16 ilen) s) := by
  unfold loadkeyEffect Config.keySize
  split
  · exact .inr ⟨by assumption, rfl⟩
  · exact .inl ⟨by omega, rfl⟩

/-- The registers after the rounds of a block command: only `L`, `R` and `N` are written, and the halves are those of the pure
rounds. -/
theorem foldl_roundStep (order : List RoundIndex) (s : State) :
    order.foldl roundStep s =
      { s with
        n := order.getLastD s.n
        l := (rounds s.rom s.rk order ⟨s.l, s.r⟩).left
        r := (rounds s.rom s.rk order ⟨s.l, s.r⟩).right } := by
  induction order generalizing s with
  | nil => rfl
  | cons n order ih =>
    rw [List.foldl_cons, ih, List.getLastD_cons]
    rfl

/-- A block command fails on its lengths, fails for want of a key, or answers the block (rules R167, R170 and R207). -/
theorem blockEffect_cases (order : List RoundIndex) (olen ilen : Nat) :
    ((ilen ≠ 8 ∨ olen ≠ 8) ∧ blockEffect order olen ilen p s = raise .invalidBlockLength 0 s) ∨
    (ilen = 8 ∧ olen = 8 ∧ s.kv = false ∧ blockEffect order olen ilen p s = raise .keyNotLoaded 0 s) ∨
    (ilen = 8 ∧ olen = 8 ∧ s.kv = true ∧
      blockEffect order olen ilen p s =
        respond .ok 0 (resultBytes (rounds s.rom s.rk order (blockHalves p)))
          { s with
            n := order.getLastD s.n
            l := (rounds s.rom s.rk order (blockHalves p)).left
            r := (rounds s.rom s.rk order (blockHalves p)).right }) := by
  unfold blockEffect Config.blockSize
  split
  · exact .inl ⟨by assumption, rfl⟩
  · split
    · exact .inr (.inl ⟨by omega, by omega, by assumption, rfl⟩)
    · refine .inr (.inr ⟨by omega, by omega, by simp_all, ?_⟩)
      simp only [foldl_roundStep]
      rfl

end commands

section steps

variable (s : State)

/-- A step is a reset event, the run of a taken command word, or a wait or a sending. -/
theorem step_cases :
    (s.rstN = false ∧ step s = .next (takeReset s)) ∨
    (s.rstN = true ∧ ∃ w s1, fetch s = some (w, s1) ∧ step s = runWord w s1) ∨
    (s.rstN = true ∧ fetch s = none ∧ step s = .next (settle s)) := by
  unfold step
  cases hr : s.rstN
  · simp
  · rcases hf : fetch s with _ | ⟨w, s1⟩
    · simp
    · exact .inr (.inl ⟨rfl, w, s1, rfl, by simp⟩)

/-- A word is taken from CMD in `IDLE`, or is the one still held (rule R60). -/
theorem fetch_cases {w : CommandWord} {s1 : State} (h : fetch s = some (w, s1)) :
    (s.seq = .idle ∧ ∃ rest, s.cmd = w :: rest ∧ s1 = takeWord w rest s) ∨
    (s.seq = .awaitPayload w ∧ s1 = s) := by
  unfold fetch at h
  split at h
  · split at h
    · cases h
    · rename_i hs _ v rest hc
      cases h
      exact .inl ⟨hs, rest, hc, rfl⟩
  · cases h
    exact .inr ⟨by assumption, rfl⟩
  · cases h
  · cases h

theorem fetch_idle {w : CommandWord} {rest : List CommandWord} (hs : s.seq = .idle) (hc : s.cmd = w :: rest) :
    fetch s = some (w, takeWord w rest s) := by simp [fetch, hs, hc]

/-- Where nothing is taken the engine waits in `IDLE` or sends. -/
theorem fetch_none (h : fetch s = none) :
    (s.seq = .idle ∧ s.cmd = [] ∧ settle s = s) ∨
    (∃ v q, s.seq = .sendWord v q ∧ settle s = offerWord v q s) ∨
    (∃ q, s.seq = .sendBytes q ∧ settle s = offerBytes q s) := by
  unfold fetch at h
  split at h
  · rename_i hs
    split at h
    · rename_i hc
      exact .inl ⟨hs, hc, by simp [settle, hs]⟩
    · cases h
  · cases h
  · rename_i v q hs
    exact .inr (.inl ⟨v, q, hs, by simp [settle, hs]⟩)
  · rename_i q hs
    exact .inr (.inr ⟨q, hs, by simp [settle, hs]⟩)

/-- What running a word does: the four commands and the illegal words (rules R74 and R76). -/
theorem runWord_cases (w : CommandWord) :
    (∃ e, decode w = .error e ∧ runWord w s = .next (illegalCommand w s)) ∨
    (∃ ilen, decode w = .ok (.loadkey ilen) ∧ runWord w s = .next (withPayload ilen s (loadkeyEffect ilen))) ∨
    (∃ olen ilen, decode w = .ok (.encrypt olen ilen) ∧
      runWord w s = .next (withPayload ilen s (blockEffect roundsUp olen ilen))) ∨
    (∃ olen ilen, decode w = .ok (.decrypt olen ilen) ∧
      runWord w s = .next (withPayload ilen s (blockEffect roundsDown olen ilen))) ∨
    (decode w = .ok .info ∧ runWord w s = .next (respond .ok sizesInfo [] s)) := by
  unfold runWord
  rcases hd : decode w with e | i
  · exact .inl ⟨e, rfl, rfl⟩
  · cases i with
    | loadkey ilen => exact .inr (.inl ⟨ilen, rfl, rfl⟩)
    | encrypt olen ilen => exact .inr (.inr (.inl ⟨olen, ilen, rfl, rfl⟩))
    | decrypt olen ilen => exact .inr (.inr (.inr (.inl ⟨olen, ilen, rfl, rfl⟩)))
    | info => exact .inr (.inr (.inr (.inr ⟨rfl, by simp [exec, execInfo]⟩)))

end steps

end Sys2Proof.Machine
end

