-- ==== Sys2Proof/Laws/PerInstr.lean ====
section
/-! SUPPORT. The fields of each command's word (rule R71), one lemma per constructor. -/

namespace Sys2Proof

/-- `LEN_W` = 8 (rule R6): a length below 256 is the value of its field. -/
theorem toNat_ofNat_byte {k : Nat} (h : k < 256) : (BitVec.ofNat 8 k).toNat = k := by
  rw [BitVec.toNat_ofNat, Nat.mod_eq_of_lt h]

/-- Bit `k` of a command word put together as rule R71 lays it out. -/
theorem getLsbD_fields (o : BitVec 4) (v : BitVec 12) (a b : BitVec 8) (k : Nat) :
    BitVec.getLsbD (w := 32) (o ++ v ++ a ++ b) k =
      if k < 8 then b.getLsbD k else if k < 16 then a.getLsbD (k - 8)
      else if k < 28 then v.getLsbD (k - 16) else o.getLsbD (k - 28) := by
  change BitVec.getLsbD (w := 4 + 12 + 8 + 8) (o ++ v ++ a ++ b) k = _
  simp only [BitVec.getLsbD_append]
  split_ifs <;> first | rfl | omega

/-- The four fields of a command word put together as rule R71 lays it out. -/
theorem fields_of_append (o : BitVec 4) (v : BitVec 12) (a b : BitVec 8) :
    opcField (o ++ v ++ a ++ b) = o ∧ rsvField (o ++ v ++ a ++ b) = v ∧
      olenField (o ++ v ++ a ++ b) = a.toNat ∧ ilenField (o ++ v ++ a ++ b) = b.toNat := by
  unfold opcField rsvField olenField ilenField
  refine ⟨?_, ?_, congrArg _ ?_, congrArg _ ?_⟩ <;> apply BitVec.eq_of_getLsbD_eq <;> intro k hk <;>
    rw [BitVec.getLsbD_extractLsb', getLsbD_fields, decide_eq_true hk, Bool.true_and] <;>
    split_ifs <;> first | omega | (congr 1; omega)

namespace Laws.EncodedFields

/-- The word of a well-formed command holds its opcode, zeros in the reserved field, and its two lengths. -/
def Statement (i : Instr) : Prop :=
  i.wellFormed = true → opcField (encode i) = opcodeOf i ∧ rsvField (encode i) = 0 ∧
    olenField (encode i) = i.resultRoom ∧ ilenField (encode i) = i.payloadLength

theorem loadkey (ilen : Nat) : Statement (.loadkey ilen) := by
  intro h
  have hb : ilen < 256 := by simpa [Instr.wellFormed] using h
  obtain ⟨h1, h2, h3, h4⟩ := fields_of_append 0x1#4 0#12 (BitVec.ofNat 8 0) (BitVec.ofNat 8 ilen)
  exact ⟨h1, h2, h3, h4.trans (toNat_ofNat_byte hb)⟩

theorem encrypt (olen ilen : Nat) : Statement (.encrypt olen ilen) := by
  intro h
  have hb : olen < 256 ∧ ilen < 256 := by simpa [Instr.wellFormed] using h
  obtain ⟨h1, h2, h3, h4⟩ := fields_of_append 0x2#4 0#12 (BitVec.ofNat 8 olen) (BitVec.ofNat 8 ilen)
  exact ⟨h1, h2, h3.trans (toNat_ofNat_byte hb.1), h4.trans (toNat_ofNat_byte hb.2)⟩

theorem decrypt (olen ilen : Nat) : Statement (.decrypt olen ilen) := by
  intro h
  have hb : olen < 256 ∧ ilen < 256 := by simpa [Instr.wellFormed] using h
  obtain ⟨h1, h2, h3, h4⟩ := fields_of_append 0x3#4 0#12 (BitVec.ofNat 8 olen) (BitVec.ofNat 8 ilen)
  exact ⟨h1, h2, h3.trans (toNat_ofNat_byte hb.1), h4.trans (toNat_ofNat_byte hb.2)⟩

theorem info : Statement .info := fun _ => ⟨by decide, by decide, by decide, by decide⟩

end Laws.EncodedFields

end Sys2Proof
end

