-- ==== Sys2Proof/Laws/Words.lean ====
section
/-! SUPPORT. Reading the eight-word sets: the key words, the schedule and its source words (rules R110 to R119). -/

namespace Sys2Proof

@[simp] theorem Words8.get_ofFn (f : RoundIndex → Word) (n : RoundIndex) : (Words8.ofFn f).get n = f n := by
  fin_cases n <;> rfl

@[simp] theorem Words8.ofFn_get (v : Words8) : Words8.ofFn v.get = v := rfl

theorem Words8.ext_get {v w : Words8} (h : ∀ n, v.get n = w.get n) : v = w := by
  rw [← Words8.ofFn_get v, ← Words8.ofFn_get w, funext h]

namespace Machine

@[simp] theorem get_kPrime (u : Words8) (n : RoundIndex) :
    (kPrime u).get n = u.get n ^^^ scheduleConstants.get n := by simp [kPrime]

@[simp] theorem get_keyWords (p : List Byte) (n : RoundIndex) :
    (keyWords p).get n = payloadByte p (2 * n.val) ++ payloadByte p (2 * n.val + 1) := by simp [keyWords]

@[simp] theorem get_kl1 (u k : Words8) (n : RoundIndex) : (roundKeysOf u k).kl1.get n = rotl16 (u.get n) 1 := by
  simp [roundKeysOf]

@[simp] theorem get_kl2 (u k : Words8) (n : RoundIndex) : (roundKeysOf u k).kl2.get n = k.get (n + 2) := by
  simp [roundKeysOf]

@[simp] theorem get_ko1 (u k : Words8) (n : RoundIndex) :
    (roundKeysOf u k).ko1.get n = rotl16 (u.get (n + 1)) 5 := by simp [roundKeysOf]

@[simp] theorem get_ko2 (u k : Words8) (n : RoundIndex) :
    (roundKeysOf u k).ko2.get n = rotl16 (u.get (n + 5)) 8 := by simp [roundKeysOf]

@[simp] theorem get_ko3 (u k : Words8) (n : RoundIndex) :
    (roundKeysOf u k).ko3.get n = rotl16 (u.get (n + 6)) 13 := by simp [roundKeysOf]

@[simp] theorem get_ki1 (u k : Words8) (n : RoundIndex) : (roundKeysOf u k).ki1.get n = k.get (n + 4) := by
  simp [roundKeysOf]

@[simp] theorem get_ki2 (u k : Words8) (n : RoundIndex) : (roundKeysOf u k).ki2.get n = k.get (n + 3) := by
  simp [roundKeysOf]

@[simp] theorem get_ki3 (u k : Words8) (n : RoundIndex) : (roundKeysOf u k).ki3.get n = k.get (n + 7) := by
  simp [roundKeysOf]

/-- The index sums of the schedule are sums modulo 8 (rule R15). -/
theorem index_add (n m : RoundIndex) : (n + m).val = (n.val + m.val) % 8 := Fin.val_add n m

end Machine

end Sys2Proof
end

