-- ==== Sys2Proof/Tests/Slice0.lean ====
section
/-! SUPPORT. Small tests: the expected values are those the spec prints (mostly spec/95_test_vectors.md) or words written out from rule
R71. After them, for each statement that has hypotheses, a state and operands that meet them together. -/

namespace Sys2Proof.Tests

open Machine Safety

/-- Eight zero words. -/
def zeros : Words8 := ⟨0, 0, 0, 0, 0, 0, 0, 0⟩

/-- An RK file of zeros. -/
def zeroKeys : RoundKeys := ⟨zeros, zeros, zeros, zeros, zeros, zeros, zeros, zeros⟩

/-- An engine at rest without a key, its registers zero. -/
def bare : State :=
  { rom := sBoxes, kv := false, rk := zeroKeys, l := 0, r := 0, n := 0, uk := zeros, kp := zeros, seq := .idle, cmd := [], din := []
    rsp := [], dout := [], rstN := true, rspReady := true, doutReady := true, resets := 0 }

/-- The key `K_A` of spec/95_test_vectors.md. -/
def keyA : List Byte := 0x20#8 :: List.replicate 15 0#8

/-- The key `K_G` of spec/95_test_vectors.md. -/
def keyG : List Byte :=
  [0x2B, 0xD6, 0x45, 0x9F, 0x82, 0xC5, 0xB3, 0x00, 0x95, 0x2C, 0x49, 0x10, 0x48, 0x81, 0xFF, 0x48]

/-- The key `K_S` of spec/95_test_vectors.md. -/
def keyS : List Byte := (List.range 16).map (BitVec.ofNat 8)

/-- An engine at rest with the key `key` loaded. -/
def keyed (key : List Byte) : State := { bare with kv := true, rk := keySchedule key }

/-- What a host collects from the step on one command frame, with `KV` after it. -/
def answer (s : State) (w : CommandWord) (p : List Byte) : Option (ResponseFrame × Bool) :=
  match step (hostSend w p s) with
  | .next t => (hostCollect t).map fun c => (c.1, t.kv)
  | _ => none

/-- The step answers a next state. -/
def goesOn (s : State) : Bool :=
  match step s with
  | .next _ => true
  | _ => false

/-! ### Well-formed commands (rule R72) -/

theorem test_wf_refuses_loadkey : (Instr.loadkey 256).wellFormed = false := by decide
theorem test_wf_refuses_encrypt_olen : (Instr.encrypt 256 8).wellFormed = false := by decide
theorem test_wf_refuses_encrypt_ilen : (Instr.encrypt 8 256).wellFormed = false := by decide
theorem test_wf_refuses_decrypt_olen : (Instr.decrypt 256 8).wellFormed = false := by decide
theorem test_wf_refuses_decrypt_ilen : (Instr.decrypt 8 256).wellFormed = false := by decide

/-! ### Words written out bit by bit from rules R71 and R74 -/

theorem test_decode_loadkey : decode 0b0001_000000000000_00000000_00010000#32 = .ok (.loadkey 16) := by decide
theorem test_decode_encrypt : decode 0b0010_000000000000_00001000_00000111#32 = .ok (.encrypt 8 7) := by decide
theorem test_decode_decrypt : decode 0b0011_000000000000_00001001_00001000#32 = .ok (.decrypt 9 8) := by decide
theorem test_decode_info : decode 0b0100_000000000000_00000000_00000000#32 = .ok .info := by decide
theorem test_decode_refuses_rsv : decode 0x28000808#32 = .error .reservedBits := by decide
theorem test_decode_refuses_opcode : decode 0xF0000003#32 = .error .reservedOpcode := by decide
theorem test_decode_refuses_loadkey_olen : decode 0x10000110#32 = .error .outputLength := by decide
theorem test_decode_refuses_info_ilen : decode 0x40000001#32 = .error .payloadLength := by decide
theorem test_encode_encrypt : encode (.encrypt 9 7) = 0x20000907 := by decide
theorem test_table_word : decodeTableWord 32 0x20000808 = some (.encrypt 8 8) := by decide

/-! ### The units (rules R102, R103, R110 to R119; spec/95_test_vectors.md sections 3 to 7) -/

/-- The examples of rules R100 and R101, the last entries among them. -/
theorem test_lookups : s7 sBoxes 17 = 113 ∧ s7 sBoxes 127 = 3 ∧ s9 sBoxes 167 = 24 ∧ s9 sBoxes 511 = 461 := by decide +kernel
/-- Row 15 of section 4, its layer 1 column. -/
theorem test_fi_layer : fiLayer sBoxes (fiSplit 0xAAAA) = ⟨0x129, 0x01⟩ := by decide +kernel
theorem test_fi : fi sBoxes 0xABCD 0x0123 = 0x5CAF := by decide +kernel
theorem test_fo : fo sBoxes (keySchedule keyS) 5 0xDEADBEEF = 0xCA7B8322 := by decide +kernel
theorem test_fl : fl (keySchedule keyG) 7 0x89ABCDEF = 0x3052DCEC := by decide +kernel
theorem test_schedule_rotated : (keySchedule keyS).ko3 =
    ⟨0xA181, 0xE1C1, 0x2000, 0x6040, 0xA080, 0xE0C0, 0x2101, 0x6141⟩ := by decide +kernel
theorem test_schedule_plain : (keySchedule keyG).ki3 =
    ⟨0xCD58, 0x2AF5, 0x00F8, 0x0B6E, 0x7EEF, 0x6BF0, 0xF388, 0x3ED5⟩ := by decide +kernel

/-! ### Steps on one command frame (spec/95_test_vectors.md section 10, the row in the name) -/

theorem test_loadkey_row4 : answer (keyed keyA) 0x10000010 keyG = some (⟨0x08000000, []⟩, true) := by decide +kernel
theorem test_loadkey_row8 : answer (keyed keyA) 0x10000011 (List.replicate 17 0xFF) = some (⟨0x18000011, []⟩, true) := by
  decide +kernel
theorem test_encrypt_row13 : answer (keyed keyG) 0x20000808 [0xEA, 0x02, 0x47, 0x14, 0xAD, 0x5C, 0x4D, 0x84] =
    some (⟨0x08080000, [0xDF, 0x1F, 0x9B, 0x25, 0x1C, 0x0B, 0xF4, 0x5F]⟩, true) := by decide +kernel
/-- An engine runs with the tables of its `rom` (rule R7). Worked out by hand from rules R136, R145 and R154: with tables of zeros and
round keys of zeros every unit answers 0 on 0. -/
theorem test_encrypt_configured_tables :
    answer { bare with rom := ⟨[], []⟩, kv := true } 0x20000808 (List.replicate 8 0) =
      some (⟨0x08080000, List.replicate 8 0⟩, true) := by decide +kernel
theorem test_encrypt_row24 : answer bare 0x20000807 (List.replicate 7 0) = some (⟨0x20000000, []⟩, false) := by
  decide +kernel
/-- Section 8: `DECRYPT FEDCBA9876543210` under `K_S`. -/
theorem test_decrypt_section8 : answer (keyed keyS) 0x30000808 [0xFE, 0xDC, 0xBA, 0x98, 0x76, 0x54, 0x32, 0x10] =
    some (⟨0x08080000, [0x83, 0x1F, 0x37, 0xE9, 0xA1, 0x19, 0xB5, 0x98]⟩, true) := by decide +kernel
theorem test_decrypt_row16 : answer bare 0x30000808 (List.replicate 8 0) = some (⟨0x30000000, []⟩, false) := by
  decide +kernel
theorem test_info_row1 : answer bare 0x40000000 [] = some (⟨0x00000810, []⟩, false) := by decide +kernel
theorem test_info_row2 : answer (keyed keyA) 0x40000000 [] = some (⟨0x08000810, []⟩, true) := by decide +kernel
theorem test_illegal_row26 : answer (keyed keyA) 0xF0000003 [1, 2, 3] = some (⟨0x48000000, []⟩, true) := by decide +kernel
theorem test_illegal_row28 : answer bare 0x40000001 [0] = some (⟨0x40000000, []⟩, false) := by decide +kernel
/-- Row 31: `KV` = 0 after a reset event, and no response. -/
theorem test_reset_row31 : (match step (hostDriveReset false (keyed keyA)) with
    | .next t => (t.kv, t.seq, t.rsp, t.rstN)
    | _ => (true, .idle, [], true)) = (false, .idle, [], false) := by decide +kernel
/-- An instruction placed for the host's question runs as the first one after reset. -/
theorem test_withFetchWord : (match step (State.reset.withFetchWord 32 0x40000000) with
    | .next t => t.rsp
    | _ => []) = [0x00000810] := by decide +kernel

/-! ### The hypotheses of the statements can be met, each clause at the ends of its range -/

theorem witness_DecodeOfEncodeIsTheCommand :
    (Instr.loadkey 0).wellFormed = true ∧ (Instr.loadkey 255).wellFormed = true ∧
    (Instr.encrypt 0 255).wellFormed = true ∧ (Instr.encrypt 255 0).wellFormed = true ∧
    (Instr.decrypt 0 255).wellFormed = true ∧ (Instr.decrypt 255 0).wellFormed = true ∧
    Instr.info.wellFormed = true := by decide

theorem witness_EncodeOfDecodeIsTheWord :
    decode 0x10000000 = .ok (.loadkey 0) ∧ decode 0x100000FF = .ok (.loadkey 255) ∧
    decode 0x2000FFFF = .ok (.encrypt 255 255) ∧ decode 0x30000000 = .ok (.decrypt 0 0) ∧
    decode 0x40000000 = .ok .info := by decide

theorem witness_DecodeFollowsMatchAndMask :
    decode 0x100000FF = .ok (.loadkey 255) ∧ decode 0x200000FF = .ok (.encrypt 0 255) ∧
    decode 0x3000FF00 = .ok (.decrypt 255 0) := by decide

/-- One word for each part of rule R76, each with the bytes its ILEN asks for. -/
theorem witness_IllegalWordsAreAnsweredAndChangeNothing :
    ∀ w ∈ ([0x00000000, 0x0FFFFFFF, 0x50000000, 0xFFFFFFFF, 0x10010010, 0x28000808, 0x10000110, 0x1000FF00, 0x40000100,
        0x40000001] : List CommandWord),
      illegalWord w.toNat ∧ (hostSend w (List.replicate 255 7) bare).rstN = true ∧
      (hostSend w (List.replicate 255 7) bare).seq = .idle ∧ (hostSend w (List.replicate 255 7) bare).cmd = [w] ∧
      w.toNat % 256 ≤ (hostSend w (List.replicate 255 7) bare).din.length ∧
      hostReady (hostSend w (List.replicate 255 7) bare) := by
  simp only [List.forall_mem_cons]
  unfold illegalWord hostReady
  refine ⟨?_, ?_, ?_, ?_, ?_, ?_, ?_, ?_, ?_, ?_, fun _ h => nomatch h⟩ <;> decide +kernel

theorem witness_StepRunsTheDecodedCommand :
    bare.rstN = true ∧ decode 0x10000010 = .ok (.loadkey 16) ∧
    (hostSend 0x10000010 [] bare).seq = .idle ∧ (hostSend 0x10000010 [] bare).cmd = [0x10000010] ∧
    ({ bare with seq := .awaitPayload 0x10000010 } : State).seq = .awaitPayload 0x10000010 := by decide

theorem witness_CommandsAreTakenOneAtATime :
    bare.rstN = true ∧ bare.seq = .idle ∧ step bare = .next bare ∧
    ({ bare with seq := .awaitPayload 0x100000FF } : State).seq ≠ .idle ∧
    step { bare with seq := .awaitPayload 0x100000FF } = .next { bare with seq := .awaitPayload 0x100000FF } :=
  ⟨rfl, rfl, rfl, by decide, rfl⟩

/-- The four situations of rule R244, and a payload that is one byte short. -/
theorem witness_WaitingChangesNothing :
    bare.rstN = true ∧ bare.seq = .idle ∧ bare.cmd = [] ∧
    (hostSend 0x10000010 (List.replicate 15 0) bare).cmd = [0x10000010] ∧
    (hostSend 0x10000010 (List.replicate 15 0) bare).din.length < (0x10000010#32).toNat % 256 ∧
    ({ bare with seq := .awaitPayload 0xF0000001 } : State).din.length < (0xF0000001#32).toNat % 256 ∧
    (hostDriveReady false true { bare with seq := .sendWord 0x08000000 [] }).rspReady = false ∧
    (hostDriveReady true false { bare with seq := .sendBytes [1] }).doutReady = false ∧ ([1] : List Byte) ≠ [] := by decide

/-- One byte there and fifteen late, then the two kinds of a slow host. -/
theorem witness_SlowHostChangesNoResult :
    (hostSend 0x10000010 [0x20] bare).rstN = true ∧ (hostSend 0x10000010 [0x20] bare).seq = .idle ∧
    (hostSend 0x10000010 [0x20] bare).cmd = [0x10000010] ∧
    (hostSend 0x10000010 [0x20] bare).din.length < (0x10000010#32).toNat % 256 ∧
    (0x10000010#32).toNat % 256 ≤ ((hostSend 0x10000010 [0x20] bare).din ++ List.replicate 15 0).length ∧
    (Instr.encrypt 8 8).payloadLength ≤ (hostDriveReady false true { bare with din := List.replicate 8 0 }).din.length ∧
    (hostDriveReady false true { bare with din := List.replicate 8 0 }).rspReady = false ∧
    (let s := hostDriveReady true false { keyed keyA with din := List.replicate 8 0 }
     s.rstN = true ∧ 8 ≤ s.din.length ∧ s.rspReady = true ∧ s.doutReady = false ∧ s.kv = true) := by decide +kernel

theorem witness_LoadkeyDerivesTheRoundKeys :
    16 ≤ ({ bare with din := keyG } : State).din.length ∧ hostReady { bare with din := keyG } := by
  unfold hostReady
  decide

theorem witness_LoadkeyOfWrongLengthReportsIt :
    ∀ ilen ∈ [0, 15, 17, 255], (Instr.loadkey ilen).wellFormed = true ∧ ilen ≠ 16 ∧
      ilen ≤ ({ bare with din := List.replicate 255 0 } : State).din.length ∧
      hostReady { bare with din := List.replicate 255 0 } := by
  unfold hostReady
  decide +kernel

theorem witness_KeyScheduleIsOneToOne :
    keyA.length = 16 ∧ keyG.length = 16 ∧ keySchedule keyA = keySchedule (0x20#8 :: List.replicate 15 0#8) := by
  decide +kernel

/-- The engine is in reset, runs a `LOADKEY` of 16 bytes, or waits. -/
theorem witness_KvIsWrittenOnlyByLoadkeyAndReset :
    (hostDriveReset false bare).rstN = false ∧ goesOn (hostDriveReset false bare) = true ∧
    (hostSend 0x10000010 keyA bare).rstN = true ∧ runsLoadkey (hostSend 0x10000010 keyA bare) ∧
    goesOn (hostSend 0x10000010 keyA bare) = true ∧
    bare.rstN = true ∧ ¬runsLoadkey bare ∧ goesOn bare = true :=
  ⟨rfl, by decide +kernel, rfl, ⟨_, _, rfl, by decide, by decide⟩, by decide +kernel, rfl,
    (fun ⟨_, _, h, _⟩ => nomatch h), by decide +kernel⟩

theorem witness_RoundKeysAreWrittenOnlyByLoadkey :
    (hostSend 0x10000010 keyA bare).rstN = true ∧ runsLoadkey (hostSend 0x10000010 keyA bare) ∧
    goesOn (hostSend 0x10000010 keyA bare) = true ∧
    bare.rstN = true ∧ ¬runsLoadkey bare ∧ goesOn bare = true :=
  ⟨rfl, ⟨_, _, rfl, by decide, by decide⟩, by decide +kernel, rfl, (fun ⟨_, _, h, _⟩ => nomatch h), by decide +kernel⟩

/-- A wrong length, the right lengths without a key, and the right lengths with one. -/
theorem witness_EncryptAnswersEightRoundsUp :
    0x20000000#32 &&& 0xFFFF0000#32 = 0x20000000#32 ∧ 0x2000FFFF#32 &&& 0xFFFF0000#32 = 0x20000000#32 ∧
    (0x20010808#32).toNat / 2 ^ 28 = 2 ∧ (0x20010808#32).toNat / 2 ^ 16 % 2 ^ 12 ≠ 0 ∧
    (0x28000808#32).toNat / 2 ^ 28 = 2 ∧ (0x28000808#32).toNat / 2 ^ 16 % 2 ^ 12 ≠ 0 ∧
    (∀ m ∈ [0, 7, 8, 9, 255], ∀ k ∈ [0, 7, 8, 9, 255], (Instr.encrypt m k).wellFormed = true ∧
      k ≤ ({ bare with din := List.replicate 255 0 } : State).din.length) ∧
    hostReady { bare with din := List.replicate 255 0 } ∧ bare.kv = false ∧ (keyed keyA).kv = true ∧
    8 ≤ ({ keyed keyA with din := List.replicate 8 0 } : State).din.length ∧
    hostReady { keyed keyA with din := List.replicate 8 0 } := by
  unfold hostReady
  decide +kernel

theorem witness_DecryptAnswersEightRoundsDown :
    0x30000000#32 &&& 0xFFFF0000#32 = 0x30000000#32 ∧ 0x3000FFFF#32 &&& 0xFFFF0000#32 = 0x30000000#32 ∧
    (0x30010808#32).toNat / 2 ^ 28 = 3 ∧ (0x30010808#32).toNat / 2 ^ 16 % 2 ^ 12 ≠ 0 ∧
    (0x38000808#32).toNat / 2 ^ 28 = 3 ∧ (0x38000808#32).toNat / 2 ^ 16 % 2 ^ 12 ≠ 0 ∧
    (∀ m ∈ [0, 7, 8, 9, 255], ∀ k ∈ [0, 7, 8, 9, 255], (Instr.decrypt m k).wellFormed = true ∧
      k ≤ ({ bare with din := List.replicate 255 0 } : State).din.length) ∧
    hostReady { bare with din := List.replicate 255 0 } ∧ bare.kv = false ∧ (keyed keyA).kv = true ∧
    8 ≤ ({ keyed keyA with din := List.replicate 8 0 } : State).din.length ∧
    hostReady { keyed keyA with din := List.replicate 8 0 } := by
  unfold hostReady
  decide +kernel

theorem witness_InfoAnswersTheSizes :
    (0x40000001#32).toNat / 2 ^ 28 = 4 ∧ (0x40000001 : CommandWord) ≠ 0x40000000 ∧ (0x4FFFFFFF#32).toNat / 2 ^ 28 = 4 ∧
    (0x4FFFFFFF : CommandWord) ≠ 0x40000000 ∧ hostReady bare ∧ hostReady (keyed keyA) := by
  unfold hostReady
  decide +kernel

theorem witness_RoundFollowsTheParity : (0 : RoundIndex).val ∈ [0, 2, 4, 6] ∧ (6 : RoundIndex).val ∈ [0, 2, 4, 6] ∧
    (1 : RoundIndex).val ∈ [1, 3, 5, 7] ∧ (7 : RoundIndex).val ∈ [1, 3, 5, 7] := by decide

theorem witness_RoundUndoesItself : (6 : RoundIndex).val % 2 = 0 ∧ (7 : RoundIndex).val % 2 = 1 := by decide

theorem witness_EncAndDecAreInverse :
    (List.replicate 8 0xFF#8).length = 8 ∧ enc sBoxes zeroKeys (List.replicate 8 0) = enc sBoxes zeroKeys (List.replicate 8 0) := by
  decide +kernel

/-- The state between the two commands: the result of the first on DIN. -/
theorem witness_DecryptOfEncryptGivesTheBlock :
    let s : State := { keyed keyA with din := List.replicate 8 0 }
    let u : State := { keyed keyA with din := [0x58, 0xC6, 0x76, 0x26, 0x06, 0xAB, 0x28, 0x89] }
    s.kv = true ∧ (List.replicate 8 0#8).length = 8 ∧ s.din = List.replicate 8 0#8 ++ [] ∧ hostReady s ∧
    u.din = [0x58, 0xC6, 0x76, 0x26, 0x06, 0xAB, 0x28, 0x89] ++ [] ∧ hostReady u ∧
    (match exec (.encrypt 8 8) s with
      | .next t => decide (u.rom = t.rom ∧ u.kv = t.kv ∧ u.rk = t.rk)
      | _ => false) = true := by
  unfold hostReady
  decide +kernel

/-- The tables of the statements on FI, FO and the lookups: the default ones, and tables whose entries are all the largest. -/
theorem witness_FiIsTheDocumentsArithmetic :
    sBoxes.wellSized = true ∧
    Config.SBoxes.wellSized ⟨List.replicate 8 (List.replicate 16 127), List.replicate 32 (List.replicate 16 511)⟩ = true := by
  decide +kernel

theorem witness_FoIsTheDocumentsArithmetic : sBoxes.wellSized = true := by decide +kernel

theorem witness_LookupsAreTheTableEntries : sBoxes.wellSized = true := by decide +kernel

/-- A reset event, a `LOADKEY` and a wait each have a next state. -/
theorem witness_TablesAreNeverWritten :
    goesOn (hostDriveReset false bare) = true ∧ goesOn (hostSend 0x10000010 keyA bare) = true ∧ goesOn bare = true := by
  decide +kernel

/-- Two engines, and the number of an engine that is not there. -/
theorem witness_EnginesAreIndependent :
    (0 : Nat) ≠ 1 ∧ (0 : Nat) ≠ 2 ∧ [bare, keyed keyA][0]?.isSome = true ∧
    (∃ d, chipStep 0 [bare, keyed keyA] = .next d ∧ ∃ e, chipStep 1 d = .next e) ∧
    (∃ d, chipStep 0 [bare, keyed keyA] = .next d ∧ ∃ e, chipStep 2 d = .next e) :=
  ⟨by decide, by decide, rfl, ⟨_, rfl, _, rfl⟩, ⟨_, rfl, _, rfl⟩⟩

theorem witness_RotationMovesEachBit : 1 ≤ 1 ∧ 15 ≤ 15 ∧ (0 < 16 ∧ 15 < 16) := by decide

/-- One word for each arm of the decoder, with its payload there. -/
theorem witness_ChecksComeInOrder :
    ∀ w ∈ ([0xFFFFFFFF, 0x100000FF, 0x10000010, 0x200000FF, 0x20000808, 0x3000FF00, 0x30000808, 0x40000000] :
        List CommandWord),
      let s := hostSend w (List.replicate 255 0) bare
      s.rstN = true ∧ s.seq = .idle ∧ s.cmd = [w] ∧ w.toNat % 256 ≤ s.din.length ∧ hostReady s := by
  simp only [List.forall_mem_cons]
  unfold hostReady
  refine ⟨?_, ?_, ?_, ?_, ?_, ?_, ?_, ?_, fun _ h => nomatch h⟩ <;> decide +kernel

/-- As above, with a failing status and with an `OK` one. -/
theorem witness_FailuresArePrecise :
    (let s := hostSend 0x100000FF (List.replicate 255 0) (keyed keyA)
     s.rstN = true ∧ s.seq = .idle ∧ s.cmd = [0x100000FF] ∧ (0x100000FF#32).toNat % 256 ≤ s.din.length ∧ hostReady s) ∧
    statusField 0x180000FF ≠ 0 ∧
    (let s := hostSend 0x20000808 (List.replicate 8 0) (keyed keyA)
     s.rstN = true ∧ s.seq = .idle ∧ s.cmd = [0x20000808] ∧ (0x20000808#32).toNat % 256 ≤ s.din.length ∧ hostReady s) ∧
    statusField 0x08080000 = 0 := by
  unfold hostReady
  decide +kernel

theorem witness_ResetOverridesEverything :
    (hostDriveReset false { keyed keyA with seq := .sendBytes [1] }).rstN = false := by decide +kernel

theorem witness_ResetEmitsNothing : (hostDriveReset false { bare with rsp := [0x08000000] }).rstN = false := by decide

/-- A keyed engine in the middle of answering a block: the word is out, its eight bytes are not. -/
theorem witness_StepKeepsTheInvariant :
    let s : State := { keyed keyA with seq := .sendBytes (List.replicate 8 0), rsp := [0x08080000] }
    inv s ∧ goesOn s = true := by
  refine ⟨⟨fun _ => ⟨keyA, rfl, rfl⟩, ?_, rfl, ?_⟩, by decide +kernel⟩
  · intro v hv
    simp only [List.mem_singleton] at hv
    subst hv
    exact .inl (by decide)
  · decide

/-- A keyed engine with one whole response frame to collect. -/
theorem witness_HostMovesKeepTheInvariant :
    let s : State := { keyed keyA with rsp := [0x08080000], dout := List.replicate 8 0 }
    inv s ∧ (hostCollect s).isSome = true := by
  refine ⟨⟨fun _ => ⟨keyA, rfl, rfl⟩, ?_, trivial, ?_⟩, by decide +kernel⟩
  · intro v hv
    simp only [List.mem_singleton] at hv
    subst hv
    exact .inl (by decide)
  · decide

/-- Two engines without a key whose RK files, `L` and `UK` differ, and two with one key whose `R` differ. -/
theorem witness_UnspecifiedValuesAreNeverSeen :
    sameToHost bare { bare with rk := keySchedule keyA, l := 1, uk := keyWords keyG } ∧
    sameToHost (keyed keyA) { keyed keyA with r := 1 } :=
  ⟨⟨rfl, rfl, (nomatch ·), rfl, rfl, rfl, rfl, rfl, rfl, rfl, rfl⟩,
    ⟨rfl, rfl, fun _ => rfl, rfl, rfl, rfl, rfl, rfl, rfl, rfl, rfl⟩⟩

theorem witness_StepIsTheBigStepReading :
    (let s := hostSend 0x10000010 keyA bare
     s.rstN = true ∧ s.seq = .idle ∧ s.cmd = [0x10000010] ∧ ilenField 0x10000010 ≤ s.din.length ∧ hostReady s) ∧
    (let s := hostSend 0x20000808 (List.replicate 9 0) (keyed keyA)
     s.rstN = true ∧ s.seq = .idle ∧ s.cmd = [0x20000808] ∧ ilenField 0x20000808 ≤ s.din.length ∧ hostReady s) := by
  unfold hostReady
  decide +kernel

/-- A run of four items from a state at rest. -/
theorem witness_EveryRunIsTheBigRun :
    atRest bare ∧ bare.kv = false ∧
    ∀ item ∈ [RunItem.frame 0x10000010 keyA, .resetEvent, .frame 0xF0000003 [1, 2, 3], .frame 0x40000000 []],
      item.wellFramed = true := by
  unfold atRest
  decide +kernel

end Sys2Proof.Tests
end

section
/-! Proofs of the family 00_scope.md: the tables nothing writes (rules R7 and R44), the rotation (rule R14), the lookups
(rules R6, R51 and R52). -/

namespace Sys2Proof.Machine

section rom

variable (s : State)

@[simp] theorem offerBytes_rom (q : List Byte) : (offerBytes q s).rom = s.rom := by
  obtain ⟨d, e, h⟩ := offerBytes_frame q s
  rw [h]

@[simp] theorem offerWord_rom (v : ResponseWord) (q : List Byte) : (offerWord v q s).rom = s.rom := by
  obtain ⟨a, d, e, h⟩ := offerWord_frame v q s
  rw [h]

@[simp] theorem raise_rom (e : Status) (info : BitVec 16) : (raise e info s).rom = s.rom := respond_rom e info [] s

/-- Taking a payload keeps the tables where the command that goes on with it does. -/
theorem withPayload_rom (k : Nat) {go : List Byte → State → State} (hgo : ∀ p u, (go p u).rom = u.rom) :
    (withPayload k s go).rom = s.rom := by
  rcases withPayload_cases k s go with ⟨-, h⟩ | ⟨-, h⟩
  · rw [h, hgo, takePayload_rom]
  · rw [h]

@[simp] theorem illegalCommand_rom (w : CommandWord) : (illegalCommand w s).rom = s.rom :=
  withPayload_rom s _ fun _ u => raise_rom u _ _

@[simp] theorem loadkeyEffect_rom (ilen : Nat) (p : List Byte) : (loadkeyEffect ilen p s).rom = s.rom := by
  rcases loadkeyEffect_cases p s ilen with ⟨-, h⟩ | ⟨-, h⟩ <;> simp [h]

@[simp] theorem blockEffect_rom (order : List RoundIndex) (olen ilen : Nat) (p : List Byte) :
    (blockEffect order olen ilen p s).rom = s.rom := by
  rcases blockEffect_cases p s order olen ilen with ⟨-, h⟩ | ⟨-, -, -, h⟩ | ⟨-, -, -, h⟩ <;> simp [h]

@[simp] theorem settle_rom : (settle s).rom = s.rom := by
  unfold settle
  split <;> simp

theorem fetch_rom {w : CommandWord} {s1 : State} (h : fetch s = some (w, s1)) : s1.rom = s.rom := by
  rcases fetch_cases s h with ⟨-, rest, -, rfl⟩ | ⟨-, rfl⟩
  · exact takeWord_rom w rest s
  · rfl

/-- Running any word, legal or not, answers a next state with the same tables. -/
theorem runWord_rom (w : CommandWord) : ∃ t, runWord w s = .next t ∧ t.rom = s.rom := by
  rcases runWord_cases s w with ⟨-, -, h⟩ | ⟨_, -, h⟩ | ⟨_, _, -, h⟩ | ⟨_, _, -, h⟩ | ⟨-, h⟩
  · exact ⟨_, h, illegalCommand_rom s w⟩
  · exact ⟨_, h, withPayload_rom s _ fun p u => loadkeyEffect_rom u _ p⟩
  · exact ⟨_, h, withPayload_rom s _ fun p u => blockEffect_rom u _ _ _ p⟩
  · exact ⟨_, h, withPayload_rom s _ fun p u => blockEffect_rom u _ _ _ p⟩
  · exact ⟨_, h, respond_rom _ _ _ s⟩

/-- Rule R44: every step, a reset event included, answers a next state with the same tables. -/
theorem step_rom : ∃ t, step s = .next t ∧ t.rom = s.rom := by
  rcases step_cases s with ⟨-, h⟩ | ⟨-, w, s1, hf, h⟩ | ⟨-, -, h⟩
  · exact ⟨_, h, takeReset_rom s⟩
  · obtain ⟨t, ht, hrom⟩ := runWord_rom s1 w
    exact ⟨t, h.trans ht, hrom.trans (fetch_rom s hf)⟩
  · exact ⟨_, h, settle_rom s⟩

end rom

/-- Below 16 the spec's rotation is the library's. -/
theorem rotl16_eq_rotateLeft (v : Word) {m : Nat} (hm : m < 16) : rotl16 v m = v.rotateLeft m := by
  rw [BitVec.rotateLeft_def, Nat.mod_eq_of_lt hm, rotl16]

/-- The bit view of rule R14: a bit goes up by `m`, or comes in again at the bottom. -/
theorem getLsbD_rotl16 (v : Word) {m k : Nat} (hm : m < 16) (hk : k < 16) :
    (rotl16 v m).getLsbD ((k + m) % 16) = v.getLsbD k := by
  rw [rotl16_eq_rotateLeft v hm, BitVec.getLsbD_rotateLeft, Nat.mod_eq_of_lt hm]
  by_cases hup : k + m < 16
  · have hi : (k + m) % 16 = k + m := Nat.mod_eq_of_lt hup
    simp [hi, hup]
  · have hi : (k + m) % 16 = k + m - 16 := by omega
    have hlow : k + m - 16 < m := by omega
    have hback : 16 - m + (k + m - 16) = k := by omega
    simp [hi, hlow, hback]

/-- The arithmetic view of rule R14: what leaves the 16 bits at the top is cut. -/
theorem toNat_rotl16 (v : Word) (m : Nat) :
    (rotl16 v m).toNat = ((v.toNat <<< m) ||| (v.toNat >>> (16 - m))) % 2 ^ 16 := by
  have hlow : v.toNat >>> (16 - m) < 2 ^ 16 := (Nat.shiftRight_le _ _).trans_lt v.isLt
  rw [rotl16, BitVec.toNat_or, BitVec.toNat_shiftLeft, BitVec.toNat_ushiftRight, Nat.or_mod_two_pow,
    Nat.mod_eq_of_lt hlow]

/-- Rule R6 for one table: `count` rows of sixteen entries, each below `bound`. -/
def TableSized (count bound : Nat) (rows : List (List Nat)) : Prop :=
  rows.length = count ∧ ∀ row ∈ rows, row.length = 16 ∧ ∀ x ∈ row, x < bound

theorem wellSized_iff (t : Config.SBoxes) :
    t.wellSized = true ↔ TableSized 8 128 t.s7Rows ∧ TableSized 32 512 t.s9Rows := by
  simp only [Config.SBoxes.wellSized, TableSized, Bool.and_eq_true, decide_eq_true_eq, List.all_eq_true]
  tauto

/-- In rows of sixteen, entry `a` of the flattened table is column `a % 16` of row `a / 16`. -/
theorem getElem?_flatten_of_rows (rows : List (List Nat)) (h : ∀ row ∈ rows, row.length = 16) (a : Nat) :
    rows.flatten[a]? = rows[a / 16]?.bind (·[a % 16]?) := by
  induction rows generalizing a with
  | nil => rfl
  | cons row rows ih =>
    obtain ⟨hrow, hrows⟩ := List.forall_mem_cons.mp h
    rw [List.flatten_cons]
    by_cases ha : a < 16
    · rw [List.getElem?_append_left (by omega), Nat.div_eq_of_lt ha, Nat.mod_eq_of_lt ha]
      rfl
    · obtain ⟨b, rfl⟩ : ∃ b, a = b + 16 := ⟨a - 16, by omega⟩
      rw [List.getElem?_append_right (by omega), hrow, Nat.add_sub_cancel, ih hrows,
        Nat.add_div_right b (by decide), Nat.add_mod_right, List.getElem?_cons_succ]

/-- In a table of the right size an index within it names an entry, and the entry is within the bound. -/
theorem TableSized.getElem?_flatten {count bound : Nat} {rows : List (List Nat)} (h : TableSized count bound rows)
    {a : Nat} (ha : a < 16 * count) :
    rows.flatten[a]? = some (romEntry rows a) ∧ romEntry rows a < bound := by
  obtain ⟨hcount, hrows⟩ := h
  have hdiv : a / 16 < rows.length := by omega
  obtain ⟨hlen, hbound⟩ := hrows _ (List.getElem_mem hdiv)
  have hmod : a % 16 < rows[a / 16].length := by omega
  have hentry : romEntry rows a = rows[a / 16][a % 16] := by
    simp only [romEntry, List.getD_eq_getElem _ _ hdiv, List.getD_eq_getElem _ _ hmod]
  constructor
  · rw [getElem?_flatten_of_rows rows (fun row hr => (hrows row hr).1), List.getElem?_eq_getElem hdiv,
      Option.bind_some, List.getElem?_eq_getElem hmod, hentry]
  · rw [hentry]
    exact hbound _ (List.getElem_mem hmod)

/-- Rule R51: the lookup in S7 is the entry. -/
theorem getElem?_s7Rows {t : Config.SBoxes} (h : TableSized 8 128 t.s7Rows) (a : BitVec 7) :
    t.s7Rows.flatten[a.toNat]? = some (s7 t a).toNat := by
  obtain ⟨hentry, hbound⟩ := h.getElem?_flatten (a := a.toNat) a.isLt
  rw [hentry, s7, BitVec.toNat_ofNat, Nat.mod_eq_of_lt hbound]

/-- Rule R52: the lookup in S9 is the entry. -/
theorem getElem?_s9Rows {t : Config.SBoxes} (h : TableSized 32 512 t.s9Rows) (a : BitVec 9) :
    t.s9Rows.flatten[a.toNat]? = some (s9 t a).toNat := by
  obtain ⟨hentry, hbound⟩ := h.getElem?_flatten (a := a.toNat) a.isLt
  rw [hentry, s9, BitVec.toNat_ofNat, Nat.mod_eq_of_lt hbound]

theorem sBoxes_wellSized : sBoxes.wellSized = true := rfl

end Sys2Proof.Machine

namespace Sys2Proof.Proofs.Scope

open Machine

/-- Settles O43: `step_rom` says it of every state, and `step` has one answer. -/
theorem tablesAreNeverWritten : Obligations.TablesAreNeverWritten := by
  refine ⟨rfl, fun s t hst => ?_⟩
  obtain ⟨u, hu, hrom⟩ := step_rom s
  obtain rfl : u = t := Host.Outcome.next.inj (hu.symm.trans hst)
  exact hrom

/-- Settles O23, the bit view and the arithmetic view of the rotation. -/
theorem rotationMovesEachBit : Obligations.RotationMovesEachBit :=
  fun v m _ hm => ⟨fun _ hk => getLsbD_rotl16 v (Nat.lt_succ_of_le hm) hk, toNat_rotl16 v m⟩

/-- Settles O44, from the sizes of rule R6 for each table. -/
theorem lookupsAreTheTableEntries : Obligations.LookupsAreTheTableEntries := by
  refine ⟨sBoxes_wellSized, fun t ht => ?_⟩
  obtain ⟨h7, h9⟩ := (wellSized_iff t).mp ht
  exact ⟨getElem?_s7Rows h7, getElem?_s9Rows h9⟩

end Sys2Proof.Proofs.Scope
end

section
/-! Proofs of the family 10_state.md: the key and the RK file (rules R21, R22 and R28), what a host can see (rules R29, R33
and R42), the frames on the channels (rules R78 to R81), reset. Every step that runs a word is first brought to the
big-step reading of rule R174, and the statements are read off that. -/

namespace Sys2Proof.Machine

open Safety

section frames

variable (s : State)

/-- Going on with a frame that is not out yet writes RSP, DOUT and `SEQ` alone. -/
theorem settle_frame : ∃ a d e, settle s = { s with rsp := a, dout := d, seq := e } := by
  unfold settle
  split
  · exact offerWord_frame _ _ s
  · obtain ⟨d, e, h⟩ := offerBytes_frame _ s
    exact ⟨s.rsp, d, e, h⟩
  · exact ⟨_, _, _, rfl⟩
  · exact ⟨_, _, _, rfl⟩

@[simp] theorem settle_kv : (settle s).kv = s.kv := by
  obtain ⟨a, d, e, h⟩ := settle_frame s
  rw [h]

@[simp] theorem settle_rk : (settle s).rk = s.rk := by
  obtain ⟨a, d, e, h⟩ := settle_frame s
  rw [h]

@[simp] theorem offerWord_kv (v : ResponseWord) (q : List Byte) : (offerWord v q s).kv = s.kv := by
  obtain ⟨a, d, e, h⟩ := offerWord_frame v q s
  rw [h]

@[simp] theorem offerWord_rk (v : ResponseWord) (q : List Byte) : (offerWord v q s).rk = s.rk := by
  obtain ⟨a, d, e, h⟩ := offerWord_frame v q s
  rw [h]

/-- Taking a word, or still holding it, writes CMD and `SEQ` alone. -/
theorem fetch_frame {w : CommandWord} {s1 : State} (h : fetch s = some (w, s1)) :
    ∃ c, s1 = { s with cmd := c, seq := .awaitPayload w } := by
  rcases fetch_cases s h with ⟨-, rest, -, rfl⟩ | ⟨hs, rfl⟩
  · exact ⟨rest, rfl⟩
  · exact ⟨s1.cmd, by rw [← hs]⟩

theorem fetch_held {w : CommandWord} (h : s.seq = .awaitPayload w) : fetch s = some (w, s) := by simp [fetch, h]

variable {s}

theorem step_of_rstN_false (hr : s.rstN = false) : step s = .next (takeReset s) := by simp [step, hr]

theorem step_of_fetch {w : CommandWord} {s1 : State} (hr : s.rstN = true) (hf : fetch s = some (w, s1)) :
    step s = runWord w s1 := by simp [step, hr, hf]

theorem step_of_fetch_none (hr : s.rstN = true) (hf : fetch s = none) : step s = .next (settle s) := by
  simp [step, hr, hf]

theorem runWord_of_decode {w : CommandWord} {i : Instr} (h : decode w = .ok i) : runWord w s = exec i s := by
  unfold runWord
  rw [h]

theorem runWord_of_illegal {w : CommandWord} {e : Illegal} (h : decode w = .error e) :
    runWord w s = .next (illegalCommand w s) := by
  unfold runWord
  rw [h]

end frames

/-! ### The big-step reading, one equation per outcome of the decoder -/

section bigStep

variable {w : CommandWord} (t : Config.SBoxes) (kv : Bool) (rk : RoundKeys) (p : List Byte)

theorem bigStep_illegal {e : Illegal} (hd : decode w = .error e) :
    bigStep t kv rk w p = failed .illegalCommand 0 kv rk := by
  unfold bigStep
  rw [hd]

theorem bigStep_loadkey {ilen : Nat} (hd : decode w = .ok (.loadkey ilen)) :
    bigStep t kv rk w p = if ilen = 16 then ⟨true, keySchedule p, ⟨0x08000000, []⟩⟩
      else failed .invalidKeySize (BitVec.ofNat 16 ilen) kv rk := by
  unfold bigStep
  rw [hd]

theorem bigStep_encrypt {olen ilen : Nat} (hd : decode w = .ok (.encrypt olen ilen)) :
    bigStep t kv rk w p = bigBlock (enc t) olen ilen kv rk p := by
  unfold bigStep
  rw [hd]

theorem bigStep_decrypt {olen ilen : Nat} (hd : decode w = .ok (.decrypt olen ilen)) :
    bigStep t kv rk w p = bigBlock (dec t) olen ilen kv rk p := by
  unfold bigStep
  rw [hd]

theorem bigStep_info (hd : decode w = .ok .info) :
    bigStep t kv rk w p = ⟨kv, rk, ⟨responseWord .ok kv 0 0x0810, []⟩⟩ := by
  unfold bigStep
  rw [hd]

end bigStep

/-! ### A taken word does what the big-step reading says -/

/-- The payload a command takes is as long as its word says (rule R70). -/
theorem payloadLength_of_decode {w : CommandWord} {i : Instr} (h : decode w = .ok i) : i.payloadLength = ilenField w := by
  unfold decode at h
  split_ifs at h <;> cases h
  · rfl
  · rfl
  · rfl
  · rename_i hk
    exact (not_not.mp hk).symm

@[simp] theorem length_resultBytes (h : Halves) : (resultBytes h).length = 8 := rfl

theorem ilenField_lt (w : CommandWord) : ilenField w < 256 := BitVec.isLt _

/-- `t` is `s` once a command with the outcome `b` is done: `KV` and the RK file are those of `b`, its frame is offered, and the
transient registers may hold anything (rule R33). -/
def Answers (b : BigResult) (s t : State) : Prop :=
  ∃ l r n uk kp, t = offerWord b.answer.word b.answer.bytes
    { s with kv := b.kv, rk := b.rk, l := l, r := r, n := n, uk := uk, kp := kp }

section answers

variable (p : List Byte) (s : State)

/-- A frame answers with the outcome that has its word, whatever the transient registers hold. -/
theorem respond_answers (st : Status) (info : BitVec 16) (kv : Bool) (rk : RoundKeys) (q : List Byte) {v : ResponseWord}
    (hv : responseWord st kv q.length info = v) (l r : Half) (n : RoundIndex) (uk kp : Words8) :
    Answers ⟨kv, rk, ⟨v, q⟩⟩ s
      (respond st info q { s with kv := kv, rk := rk, l := l, r := r, n := n, uk := uk, kp := kp }) := by
  subst hv
  exact ⟨l, r, n, uk, kp, rfl⟩

theorem raise_answers (e : Status) (info : BitVec 16) : Answers (failed e info s.kv s.rk) s (raise e info s) :=
  respond_answers s e info s.kv s.rk [] rfl s.l s.r s.n s.uk s.kp

theorem loadkeyEffect_answers {w : CommandWord} {ilen : Nat} (hd : decode w = .ok (.loadkey ilen)) :
    Answers (bigStep s.rom s.kv s.rk w p) s (loadkeyEffect ilen p s) := by
  rw [bigStep_loadkey _ _ _ _ hd]
  rcases loadkeyEffect_cases p s ilen with ⟨hk, h⟩ | ⟨hk, h⟩
  · rw [h, if_pos hk]
    exact respond_answers s .ok 0 true (keySchedule p) [] (by decide) s.l s.r s.n (keyWords p) (kPrime (keyWords p))
  · rw [h, if_neg hk]
    exact raise_answers s _ _

theorem blockEffect_answers (order : List RoundIndex) (olen ilen : Nat) :
    Answers (bigBlock (fun rk b => resultBytes (rounds s.rom rk order (blockHalves b))) olen ilen s.kv s.rk p) s
      (blockEffect order olen ilen p s) := by
  unfold bigBlock
  rcases blockEffect_cases p s order olen ilen with ⟨hk, h⟩ | ⟨hi, ho, hkv, h⟩ | ⟨hi, ho, hkv, h⟩
  · rw [h, if_neg (by omega)]
    exact raise_answers s _ _
  · rw [h, if_pos ⟨hi, ho⟩, if_neg (by simp [hkv])]
    exact raise_answers s _ _
  · rw [h, if_pos ⟨hi, ho⟩, if_pos hkv, hkv]
    exact respond_answers s .ok 0 true s.rk _ (by rw [length_resultBytes]; decide) _ _ _ s.uk s.kp

theorem respond_info_answers {w : CommandWord} (hd : decode w = .ok .info) :
    Answers (bigStep s.rom s.kv s.rk w p) s (respond .ok sizesInfo [] s) := by
  rw [bigStep_info _ _ _ _ hd]
  exact respond_answers s .ok sizesInfo s.kv s.rk [] rfl s.l s.r s.n s.uk s.kp

/-- A host that is ready gets the whole frame, and the command is over (rules R37 and R78). -/
theorem Answers.ready {b : BigResult} {s t : State} (h : Answers b s t) (hr : s.rspReady = true)
    (hd : s.doutReady = true) :
    ∃ l r n uk kp, t =
      { s with
        kv := b.kv, rk := b.rk, l := l, r := r, n := n, uk := uk, kp := kp, seq := .idle
        rsp := s.rsp ++ [b.answer.word], dout := s.dout ++ b.answer.bytes } := by
  obtain ⟨l, r, n, uk, kp, rfl⟩ := h
  refine ⟨l, r, n, uk, kp, offerWord_ready _ _ _ ?_ ?_⟩
  · exact hr
  · exact hd

/-- Every word, legal or not, takes the payload its `ILEN` field asks for and then answers as rule R174 reads it. -/
theorem runWord_eq_withPayload (w : CommandWord) :
    ∃ go, (∀ s, runWord w s = .next (withPayload (ilenField w) s go)) ∧
      ∀ p s, Answers (bigStep s.rom s.kv s.rk w p) s (go p s) := by
  rcases hd : decode w with e | i
  · refine ⟨fun _ s => raise .illegalCommand 0 s, fun s => runWord_of_illegal hd, fun p s => ?_⟩
    rw [bigStep_illegal _ _ _ _ hd]
    exact raise_answers s _ _
  · have hk := payloadLength_of_decode hd
    rw [← hk]
    cases i with
    | loadkey ilen =>
      exact ⟨_, fun s => runWord_of_decode hd, fun p s => loadkeyEffect_answers p s hd⟩
    | encrypt olen ilen =>
      refine ⟨_, fun s => runWord_of_decode hd, fun p s => ?_⟩
      rw [bigStep_encrypt _ _ _ _ hd]
      exact blockEffect_answers p s roundsUp olen ilen
    | decrypt olen ilen =>
      refine ⟨_, fun s => runWord_of_decode hd, fun p s => ?_⟩
      rw [bigStep_decrypt _ _ _ _ hd]
      exact blockEffect_answers p s roundsDown olen ilen
    | info =>
      exact ⟨_, fun s => runWord_of_decode hd, fun p s => respond_info_answers p s hd⟩

/-- Rules R68 and R174: a taken word waits for its payload, or takes it and answers as the big-step reading says. -/
theorem runWord_outcome (w : CommandWord) :
    (s.din.length < ilenField w ∧ runWord w s = .next s) ∨
    (ilenField w ≤ s.din.length ∧ ∃ t, runWord w s = .next t ∧
      Answers (bigStep s.rom s.kv s.rk w (s.din.take (ilenField w))) (takePayload (ilenField w) s) t) := by
  obtain ⟨go, hrun, hgo⟩ := runWord_eq_withPayload w
  rw [hrun]
  rcases withPayload_cases (ilenField w) s go with ⟨hlen, h⟩ | ⟨hlen, h⟩
  · exact .inr ⟨hlen, _, congrArg _ h, hgo _ (takePayload (ilenField w) s)⟩
  · exact .inl ⟨hlen, congrArg _ h⟩

end answers

/-! ### What a step does to `KV` and the RK file -/

section keys

theorem bigBlock_keys (f : RoundKeys → List Byte → List Byte) (olen ilen : Nat) (kv : Bool) (rk : RoundKeys)
    (p : List Byte) : (bigBlock f olen ilen kv rk p).kv = kv ∧ (bigBlock f olen ilen kv rk p).rk = rk := by
  unfold bigBlock failed
  split
  · cases kv <;> simp
  · simp

/-- The big-step reading writes the key for a `LOADKEY` of 16 bytes and for nothing else (rules R22 and R28). -/
theorem bigStep_keys_of_not_loadkey {w : CommandWord} (hd : decode w ≠ .ok (.loadkey 16)) (t : Config.SBoxes)
    (kv : Bool) (rk : RoundKeys) (p : List Byte) : (bigStep t kv rk w p).kv = kv ∧ (bigStep t kv rk w p).rk = rk := by
  rcases hw : decode w with e | i
  · rw [bigStep_illegal _ _ _ _ hw]
    exact ⟨rfl, rfl⟩
  · cases i with
    | loadkey ilen =>
      rw [bigStep_loadkey _ _ _ _ hw, if_neg (by rintro rfl; exact hd hw)]
      exact ⟨rfl, rfl⟩
    | encrypt olen ilen =>
      rw [bigStep_encrypt _ _ _ _ hw]
      exact bigBlock_keys _ _ _ _ _ _
    | decrypt olen ilen =>
      rw [bigStep_decrypt _ _ _ _ hw]
      exact bigBlock_keys _ _ _ _ _ _
    | info =>
      rw [bigStep_info _ _ _ _ hw]
      exact ⟨rfl, rfl⟩

variable {s t : State}

theorem Answers.kv {b : BigResult} (h : Answers b s t) : t.kv = b.kv := by
  obtain ⟨_, _, _, _, _, rfl⟩ := h
  exact offerWord_kv _ _ _

theorem Answers.rk {b : BigResult} (h : Answers b s t) : t.rk = b.rk := by
  obtain ⟨_, _, _, _, _, rfl⟩ := h
  exact offerWord_rk _ _ _

theorem runsLoadkey_iff_of_fetch {w : CommandWord} {s1 : State} (hf : fetch s = some (w, s1)) :
    runsLoadkey s ↔ decode w = .ok (.loadkey 16) ∧ 16 ≤ s.din.length := by
  simp [runsLoadkey, hf]

theorem not_runsLoadkey_of_fetch_none (hf : fetch s = none) : ¬runsLoadkey s := by
  simp [runsLoadkey, hf]

/-- Rules R22 and R28: without a reset a step writes `KV` and the whole RK file if it runs a `LOADKEY` of 16 bytes, and
otherwise neither. -/
theorem step_keys (hr : s.rstN = true) (hst : step s = .next t) :
    (runsLoadkey s ∧ t.kv = true ∧ t.rk = keySchedule (s.din.take 16)) ∨
    (¬runsLoadkey s ∧ t.kv = s.kv ∧ t.rk = s.rk) := by
  rcases hf : fetch s with _ | ⟨w, s1⟩
  · rw [step_of_fetch_none hr hf] at hst
    cases hst
    exact .inr ⟨not_runsLoadkey_of_fetch_none hf, settle_kv s, settle_rk s⟩
  rw [step_of_fetch hr hf] at hst
  rw [runsLoadkey_iff_of_fetch hf]
  obtain ⟨c, rfl⟩ := fetch_frame s hf
  have hlen : decode w = .ok (.loadkey 16) → ilenField w = 16 := fun hd => (payloadLength_of_decode hd).symm
  rcases runWord_outcome { s with cmd := c, seq := .awaitPayload w } w with ⟨hk, h⟩ | ⟨hk, u, h, ha⟩
  · rw [h] at hst
    cases hst
    refine .inr ⟨fun ⟨hd, h16⟩ => ?_, rfl, rfl⟩
    rw [hlen hd] at hk
    exact absurd h16 (Nat.not_le.mpr hk)
  · rw [h] at hst
    cases hst
    rw [ha.kv, ha.rk]
    by_cases hd : decode w = .ok (.loadkey 16)
    · rw [bigStep_loadkey _ _ _ _ hd, if_pos rfl, hlen hd]
      exact .inl ⟨⟨hd, hlen hd ▸ hk⟩, rfl, rfl⟩
    · exact .inr ⟨fun h => hd h.1, bigStep_keys_of_not_loadkey hd _ _ _ _⟩

/-- Rule R21: every step keeps it that a valid key is a complete one. -/
theorem step_keeps_keyInv (hi : keyInv s) (hst : step s = .next t) : keyInv t := by
  cases hr : s.rstN
  · rw [step_of_rstN_false hr] at hst
    cases hst
    exact nofun
  · rcases step_keys hr hst with ⟨⟨_, _, _, _, h16⟩, -, hrk⟩ | ⟨-, hkv, hrk⟩
    · exact fun _ => ⟨s.din.take 16, by simpa using h16, hrk⟩
    · unfold keyInv
      rw [hkv, hrk]
      exact hi

end keys

/-! ### The frames on RSP and DOUT -/

section legal

/-- The response word of a failed `LOADKEY` as rule R80 tabulates it: the length stands in the low bits. -/
theorem responseWord_invalidKeySize (kv : Bool) {k : Nat} (hk : k < 256) :
    responseWord .invalidKeySize kv 0 (BitVec.ofNat 16 k) =
      (if kv then 0x18000000 else 0x10000000) + BitVec.ofNat 32 k := by
  have hsplit : responseWord .invalidKeySize kv 0 (BitVec.ofNat 16 k) =
      (if kv then 0x1800#16 else 0x1000#16) ++ BitVec.ofNat 16 k := by
    unfold responseWord
    cases kv <;> rfl
  rw [hsplit]
  apply BitVec.eq_of_toNat_eq
  rw [BitVec.toNat_append, ← Nat.shiftLeft_add_eq_or_of_lt (BitVec.isLt _)]
  cases kv <;> simp <;> omega

/-- The failures without information; `KeyNotLoaded` comes with `KV` = 0 alone (rule R80). -/
theorem legalResponse_failed {e : Status} {kv : Bool}
    (h : e = .invalidBlockLength ∨ e = .illegalCommand ∨ e = .keyNotLoaded ∧ kv = false) :
    legalResponse (responseWord e kv 0 0) := by
  left
  rcases h with rfl | rfl | ⟨rfl, rfl⟩
  · cases kv <;> decide
  · cases kv <;> decide
  · decide

/-- Every word of the table of rule R80 announces no byte or a block. -/
theorem rlenField_of_legalResponse {v : ResponseWord} (h : legalResponse v) : rlenField v = 0 ∨ rlenField v = 8 := by
  rcases h with h | ⟨k, hk, -, h | h⟩
  · fin_cases h <;> decide
  · have hw := responseWord_invalidKeySize false hk
    exact .inl (h.trans hw.symm ▸ rlenField_responseWord _ _ _ _ (by decide))
  · have hw := responseWord_invalidKeySize true hk
    exact .inl (h.trans hw.symm ▸ rlenField_responseWord _ _ _ _ (by decide))

/-- A legal response frame: a word of rule R80's table with as many bytes as it announces (rule R78), which is what the
invariant asks of a frame that waits to be sent. -/
def LegalFrame (v : ResponseWord) (q : List Byte) : Prop := pendingLegal (.sendWord v q)

theorem legalFrame_failed {e : Status} {kv : Bool}
    (h : e = .invalidBlockLength ∨ e = .illegalCommand ∨ e = .keyNotLoaded ∧ kv = false) :
    LegalFrame (responseWord e kv 0 0) [] :=
  ⟨legalResponse_failed h, rlenField_responseWord _ _ _ _ (by decide)⟩

theorem legalFrame_invalidKeySize {k : Nat} (hk : k < 256) (hne : k ≠ 16) (kv : Bool) :
    LegalFrame (responseWord .invalidKeySize kv 0 (BitVec.ofNat 16 k)) [] := by
  refine ⟨.inr ⟨k, hk, hne, ?_⟩, rlenField_responseWord _ _ _ _ (by decide)⟩
  have hw := responseWord_invalidKeySize kv hk
  cases kv
  · exact .inl hw
  · exact .inr hw

theorem legalFrame_loadkey : LegalFrame 0x08000000 [] := ⟨.inl (by decide), rfl⟩

theorem legalFrame_block {q : List Byte} (hq : q.length = 8) : LegalFrame 0x08080000 q := ⟨.inl (by decide), hq.symm⟩

theorem legalFrame_info (kv : Bool) : LegalFrame (responseWord .ok kv 0 0x0810) [] := by
  cases kv <;> exact ⟨.inl (by decide), rfl⟩

theorem legalFrame_bigBlock {f : RoundKeys → List Byte → List Byte} (hf : ∀ rk p, (f rk p).length = 8)
    (olen ilen : Nat) (kv : Bool) (rk : RoundKeys) (p : List Byte) :
    LegalFrame (bigBlock f olen ilen kv rk p).answer.word (bigBlock f olen ilen kv rk p).answer.bytes := by
  unfold bigBlock
  split
  · cases kv
    · exact legalFrame_failed (.inr (.inr ⟨rfl, rfl⟩))
    · exact legalFrame_block (hf rk p)
  · exact legalFrame_failed (.inl rfl)

/-- Rules R80 and R81: every command frame, legal or not, is answered with a legal response frame. -/
theorem legalFrame_bigStep (t : Config.SBoxes) (kv : Bool) (rk : RoundKeys) (w : CommandWord) (p : List Byte) :
    LegalFrame (bigStep t kv rk w p).answer.word (bigStep t kv rk w p).answer.bytes := by
  rcases hd : decode w with e | i
  · rw [bigStep_illegal _ _ _ _ hd]
    exact legalFrame_failed (.inr (.inl rfl))
  · cases i with
    | loadkey ilen =>
      rw [bigStep_loadkey _ _ _ _ hd]
      split
      · exact legalFrame_loadkey
      · have hk : ilen < 256 := lt_of_eq_of_lt (payloadLength_of_decode hd) (ilenField_lt w)
        exact legalFrame_invalidKeySize hk (by assumption) kv
    | encrypt olen ilen =>
      rw [bigStep_encrypt _ _ _ _ hd]
      exact legalFrame_bigBlock (fun _ _ => length_resultBytes _) _ _ _ _ _
    | decrypt olen ilen =>
      rw [bigStep_decrypt _ _ _ _ hd]
      exact legalFrame_bigBlock (fun _ _ => length_resultBytes _) _ _ _ _ _
    | info =>
      rw [bigStep_info _ _ _ _ hd]
      exact legalFrame_info kv

end legal

section frameInv

variable {s t : State}

@[simp] theorem announced_append (vs : List ResponseWord) (v : ResponseWord) :
    announced (vs ++ [v]) = announced vs + rlenField v := by simp [announced]

@[simp] theorem announced_cons (v : ResponseWord) (vs : List ResponseWord) :
    announced (v :: vs) = rlenField v + announced vs := by simp [announced]

/-- Offering the bytes that the words on RSP still owe keeps the channels in step. -/
theorem frameInv_offerBytes {q : List Byte} (hrsp : ∀ v ∈ s.rsp, legalResponse v) (hq : q.length = 0 ∨ q.length = 8)
    (hsum : announced s.rsp = s.dout.length + q.length) : frameInv (offerBytes q s) := by
  rcases offerBytes_cases q s with ⟨-, h⟩ | ⟨hne, -, h⟩
  · rw [h]
    exact ⟨hrsp, trivial, by simpa [owedBytes] using hsum⟩
  · rw [h]
    exact ⟨hrsp, hq.resolve_left (by simpa using hne), hsum⟩

/-- Offering a legal response frame where nothing is owed keeps the channels in step. -/
theorem frameInv_offerWord {v : ResponseWord} {q : List Byte} (hrsp : ∀ v ∈ s.rsp, legalResponse v)
    (hsum : announced s.rsp = s.dout.length) (hf : LegalFrame v q) : frameInv (offerWord v q s) := by
  obtain ⟨hlegal, hlen⟩ := id hf
  rcases offerWord_cases v q s with ⟨-, h⟩ | ⟨-, h⟩
  · rw [h]
    refine frameInv_offerBytes ?_ (hlen ▸ rlenField_of_legalResponse hlegal) ?_
    · exact List.forall_mem_append.mpr ⟨hrsp, by simpa using hlegal⟩
    · rw [announced_append, hsum, hlen]
  · rw [h]
    exact ⟨hrsp, hf, hsum⟩

theorem settle_keeps_frameInv (hi : frameInv s) (hf : fetch s = none) : frameInv (settle s) := by
  rcases fetch_none s hf with ⟨-, -, h⟩ | ⟨v, q, hs, h⟩ | ⟨q, hs, h⟩
  · rwa [h]
  · obtain ⟨hrsp, hpend, hsum⟩ := hi
    rw [hs] at hpend hsum
    rw [h]
    exact frameInv_offerWord hrsp hsum hpend
  · obtain ⟨hrsp, hpend, hsum⟩ := hi
    rw [hs] at hpend hsum
    rw [h]
    exact frameInv_offerBytes hrsp (.inr hpend) hsum

/-- No byte is owed while a word is being taken or held. -/
theorem owedBytes_of_fetch {w : CommandWord} {s1 : State} (hf : fetch s = some (w, s1)) : owedBytes s.seq = 0 := by
  rcases fetch_cases s hf with ⟨hs, -⟩ | ⟨hs, -⟩ <;> rw [hs] <;> rfl

/-- Rules R78, R80 and R81: every step keeps the channels in step. -/
theorem step_keeps_frameInv (hi : frameInv s) (hst : step s = .next t) : frameInv t := by
  cases hr : s.rstN
  · rw [step_of_rstN_false hr] at hst
    cases hst
    exact ⟨nofun, trivial, rfl⟩
  rcases hf : fetch s with _ | ⟨w, s1⟩
  · rw [step_of_fetch_none hr hf] at hst
    cases hst
    exact settle_keeps_frameInv hi hf
  rw [step_of_fetch hr hf] at hst
  obtain ⟨hrsp, -, hsum⟩ := hi
  rw [owedBytes_of_fetch hf] at hsum
  obtain ⟨c, rfl⟩ := fetch_frame s hf
  rcases runWord_outcome { s with cmd := c, seq := .awaitPayload w } w with ⟨-, h⟩ | ⟨-, u, h, ha⟩
  · rw [h] at hst
    cases hst
    exact ⟨hrsp, trivial, hsum⟩
  · rw [h] at hst
    cases hst
    obtain ⟨_, _, _, _, _, rfl⟩ := ha
    exact frameInv_offerWord hrsp hsum (legalFrame_bigStep _ _ _ _ _)

/-- A frame the host collects is a legal one, and the frames left are in step (rules R68 and R78). -/
theorem hostCollect_keeps_frameInv {f : ResponseFrame} (hi : frameInv s) (hc : hostCollect s = some (f, t)) :
    frameInv t ∧ LegalFrame f.word f.bytes ∧ t.kv = s.kv ∧ t.rk = s.rk := by
  obtain ⟨hrsp, hpend, hsum⟩ := hi
  unfold hostCollect at hc
  split at hc
  · cases hc
  · rename_i v rest hv
    rw [hv] at hrsp hsum
    obtain ⟨hlegal, hrest⟩ := List.forall_mem_cons.mp hrsp
    split at hc
    · rename_i hlen
      cases hc
      refine ⟨⟨hrest, hpend, ?_⟩, ⟨hlegal, by simpa using hlen⟩, rfl, rfl⟩
      rw [announced_cons] at hsum
      simp only [List.length_drop]
      omega
    · cases hc

end frameInv

/-! ### What a host can see -/

section host

variable {s t : State}

/-- The frame and `KV` of the big-step reading use the RK file only where a key is loaded (rule R33). -/
theorem bigBlock_of_same_keys (f : RoundKeys → List Byte → List Byte) (olen ilen : Nat) {kv : Bool} {rk rk' : RoundKeys}
    (h : kv = true → rk = rk') (p : List Byte) :
    (bigBlock f olen ilen kv rk p).answer = (bigBlock f olen ilen kv rk' p).answer := by
  cases kv
  · unfold bigBlock
    split <;> rfl
  · rw [h rfl]

theorem bigStep_answer_of_same_keys (x : Config.SBoxes) {kv : Bool} {rk rk' : RoundKeys} (h : kv = true → rk = rk')
    (w : CommandWord) (p : List Byte) : (bigStep x kv rk w p).answer = (bigStep x kv rk' w p).answer := by
  rcases hd : decode w with e | i
  · rw [bigStep_illegal _ _ _ _ hd, bigStep_illegal _ _ _ _ hd]
    rfl
  · cases i with
    | loadkey ilen =>
      rw [bigStep_loadkey _ _ _ _ hd, bigStep_loadkey _ _ _ _ hd]
      split <;> rfl
    | encrypt olen ilen =>
      rw [bigStep_encrypt _ _ _ _ hd, bigStep_encrypt _ _ _ _ hd]
      exact bigBlock_of_same_keys _ _ _ h p
    | decrypt olen ilen =>
      rw [bigStep_decrypt _ _ _ _ hd, bigStep_decrypt _ _ _ _ hd]
      exact bigBlock_of_same_keys _ _ _ h p
    | info =>
      rw [bigStep_info _ _ _ _ hd, bigStep_info _ _ _ _ hd]

theorem bigStep_keys_of_same_keys (x : Config.SBoxes) {kv : Bool} {rk rk' : RoundKeys} (h : kv = true → rk = rk')
    (w : CommandWord) (p : List Byte) :
    (bigStep x kv rk w p).kv = (bigStep x kv rk' w p).kv ∧
      ((bigStep x kv rk w p).kv = true → (bigStep x kv rk w p).rk = (bigStep x kv rk' w p).rk) := by
  by_cases hd : decode w = .ok (.loadkey 16)
  · simp [bigStep_loadkey _ _ _ _ hd]
  · obtain ⟨hkv, hrk⟩ := bigStep_keys_of_not_loadkey hd x kv rk p
    obtain ⟨hkv', hrk'⟩ := bigStep_keys_of_not_loadkey hd x kv rk' p
    rw [hkv, hrk, hkv', hrk']
    exact ⟨rfl, h⟩

theorem sameToHost_offerBytes (h : sameToHost s t) (q : List Byte) : sameToHost (offerBytes q s) (offerBytes q t) := by
  obtain ⟨hrom, hkv, hrk, -, hcmd, hdin, hrsp, hdout, hrst, hrr, hdr⟩ := h
  unfold offerBytes
  rw [← hdr]
  split
  · exact ⟨hrom, hkv, hrk, rfl, hcmd, hdin, hrsp, congrArg (· ++ q) hdout, hrst, hrr, rfl⟩
  · exact ⟨hrom, hkv, hrk, rfl, hcmd, hdin, hrsp, hdout, hrst, hrr, rfl⟩

theorem sameToHost_offerWord (h : sameToHost s t) (v : ResponseWord) (q : List Byte) :
    sameToHost (offerWord v q s) (offerWord v q t) := by
  obtain ⟨hrom, hkv, hrk, hseq, hcmd, hdin, hrsp, hdout, hrst, hrr, hdr⟩ := h
  unfold offerWord
  rw [← hrr]
  split
  · refine sameToHost_offerBytes ?_ q
    exact ⟨hrom, hkv, hrk, hseq, hcmd, hdin, congrArg (· ++ [v]) hrsp, hdout, hrst, rfl, hdr⟩
  · exact ⟨hrom, hkv, hrk, rfl, hcmd, hdin, hrsp, hdout, hrst, rfl, hdr⟩

theorem sameToHost_settle (h : sameToHost s t) : sameToHost (settle s) (settle t) := by
  obtain ⟨-, -, -, hseq, -⟩ := id h
  unfold settle
  rw [← hseq]
  split
  · exact sameToHost_offerWord h _ _
  · exact sameToHost_offerBytes h _
  · exact h
  · exact h

theorem sameToHost_takeReset (h : sameToHost s t) : sameToHost (takeReset s) (takeReset t) := by
  obtain ⟨hrom, -, -, -, -, -, -, -, hrst, hrr, hdr⟩ := h
  exact ⟨hrom, rfl, nofun, rfl, rfl, rfl, rfl, rfl, hrst, hrr, hdr⟩

theorem sameToHost_fetch (h : sameToHost s t) :
    (fetch s = none ∧ fetch t = none) ∨
    ∃ w s1 t1, fetch s = some (w, s1) ∧ fetch t = some (w, t1) ∧ sameToHost s1 t1 := by
  obtain ⟨hrom, hkv, hrk, hseq, hcmd, hdin, hrsp, hdout, hrst, hrr, hdr⟩ := id h
  unfold fetch
  rw [← hseq, ← hcmd]
  split
  · split
    · exact .inl ⟨rfl, rfl⟩
    · exact .inr ⟨_, _, _, rfl, rfl, hrom, hkv, hrk, rfl, rfl, hdin, hrsp, hdout, hrst, hrr, hdr⟩
  · exact .inr ⟨_, _, _, rfl, rfl, h⟩
  · exact .inl ⟨rfl, rfl⟩
  · exact .inl ⟨rfl, rfl⟩

/-- The same word run on two engines that look the same leaves them looking the same. -/
theorem sameToHost_runWord (h : sameToHost s t) (w : CommandWord) :
    ∃ s' t', runWord w s = .next s' ∧ runWord w t = .next t' ∧ sameToHost s' t' := by
  obtain ⟨hrom, hkv, hrk, hseq, hcmd, hdin, hrsp, hdout, hrst, hrr, hdr⟩ := id h
  rcases runWord_outcome s w with ⟨hs, hrun⟩ | ⟨hs, s', hrun, ha⟩ <;>
    rcases runWord_outcome t w with ⟨ht, hrun'⟩ | ⟨ht, t', hrun', ha'⟩ <;> rw [← hdin] at ht
  · exact ⟨s, t, hrun, hrun', h⟩
  · omega
  · omega
  · refine ⟨s', t', hrun, hrun', ?_⟩
    rw [← hrom, ← hkv, ← hdin] at ha'
    obtain ⟨_, _, _, _, _, rfl⟩ := ha
    obtain ⟨_, _, _, _, _, rfl⟩ := ha'
    rw [← bigStep_answer_of_same_keys s.rom hrk]
    obtain ⟨hkv1, hrk1⟩ := bigStep_keys_of_same_keys s.rom hrk w (s.din.take (ilenField w))
    refine sameToHost_offerWord ?_ _ _
    exact ⟨hrom, hkv1, hrk1, hseq, hcmd, congrArg (List.drop _) hdin, hrsp, hdout, hrst, hrr, hdr⟩

end host

end Sys2Proof.Machine

namespace Sys2Proof.Proofs.EngineState

open Machine Safety

/-- Settles O38: the key by `step_keys`, the frames because every answer of the big-step reading is a legal frame. -/
theorem stepKeepsTheInvariant : Obligations.StepKeepsTheInvariant :=
  fun _ _ ⟨hkey, hframe⟩ hst => ⟨step_keeps_keyInv hkey hst, step_keeps_frameInv hframe hst⟩

/-- Settles O40, along the three kinds of step: reset, the run of a word, a wait or a sending. -/
theorem unspecifiedValuesAreNeverSeen : Obligations.UnspecifiedValuesAreNeverSeen := by
  intro s t h
  obtain ⟨-, -, -, -, -, -, -, -, hrst, -, -⟩ := id h
  cases hr : s.rstN
  · exact ⟨_, _, step_of_rstN_false hr, step_of_rstN_false (hrst ▸ hr), sameToHost_takeReset h⟩
  rcases sameToHost_fetch h with ⟨hf, hf'⟩ | ⟨w, s1, t1, hf, hf', h1⟩
  · exact ⟨_, _, step_of_fetch_none hr hf, step_of_fetch_none (hrst ▸ hr) hf', sameToHost_settle h⟩
  · rw [step_of_fetch hr hf, step_of_fetch (hrst ▸ hr) hf']
    exact sameToHost_runWord h1 w

/-- Settles O14, by `step_keys`. -/
theorem kvIsWrittenOnlyByLoadkeyAndReset : Obligations.KvIsWrittenOnlyByLoadkeyAndReset := by
  intro s t hst
  refine ⟨fun hr => ?_, fun hr hl => ?_, fun hr hl => ?_⟩
  · rw [step_of_rstN_false hr] at hst
    cases hst
    exact takeReset_kv s
  · rcases step_keys hr hst with ⟨-, hkv, -⟩ | ⟨hn, -⟩
    · exact hkv
    · exact absurd hl hn
  · rcases step_keys hr hst with ⟨hy, -⟩ | ⟨-, hkv, -⟩
    · exact absurd hy hl
    · exact hkv

/-- Settles O15, by `step_keys`. -/
theorem roundKeysAreWrittenOnlyByLoadkey : Obligations.RoundKeysAreWrittenOnlyByLoadkey := by
  intro s t hr hst
  rcases step_keys hr hst with ⟨hl, hkv, hrk⟩ | ⟨hn, -, hrk⟩
  · exact ⟨fun _ => ⟨hrk, hkv⟩, fun hn => absurd hl hn⟩
  · exact ⟨fun hl => absurd hl hn, fun _ => hrk⟩

/-- Settles O39: sending and driving pins write nothing the invariant reads, and collecting takes one legal frame. -/
theorem hostMovesKeepTheInvariant : Obligations.HostMovesKeepTheInvariant := by
  intro s hi
  refine ⟨fun _ _ => hi, fun _ => hi, fun _ _ => hi, fun f t hc => ?_⟩
  obtain ⟨hkey, hframe⟩ := hi
  obtain ⟨hframe', ⟨hlegal, hlen⟩, hkv, hrk⟩ := hostCollect_keeps_frameInv hframe hc
  refine ⟨⟨?_, hframe'⟩, hlegal, hlen.symm⟩
  unfold keyInv
  rw [hkv, hrk]
  exact hkey

/-- Settles O41: the outcome of `runWord`, sent whole to a host that is ready. -/
theorem stepIsTheBigStepReading : Obligations.StepIsTheBigStepReading := by
  intro s w rest hr hs hc hlen ⟨hrr, hdr⟩ b
  have hstep : step s = runWord w (takeWord w rest s) := step_of_fetch hr (fetch_idle s hs hc)
  obtain ⟨-, hbytes⟩ := legalFrame_bigStep s.rom s.kv s.rk w (s.din.take (ilenField w))
  rcases runWord_outcome (takeWord w rest s) w with ⟨hk, -⟩ | ⟨-, t, hrun, ha⟩
  · exact absurd hlen (Nat.not_le.mpr hk)
  · obtain ⟨_, _, _, _, _, rfl⟩ := ha.ready hrr hdr
    exact ⟨_, hstep.trans hrun, rfl, rfl, rfl, rfl, rfl, rfl, rfl, hbytes.symm, rfl, rfl, rfl⟩

/-- Settles O6: the word is fetched in either state of `SEQ`, and a word that decodes runs by `exec`. -/
theorem stepRunsTheDecodedCommand : Obligations.StepRunsTheDecodedCommand := by
  intro s w i hr hd
  refine ⟨fun rest hs hc => ?_, fun hs => ?_⟩
  · rw [step_of_fetch hr (fetch_idle s hs hc), runWord_of_decode hd]
    rfl
  · rw [step_of_fetch hr (fetch_held s hs), runWord_of_decode hd]

/-- Settles O36: nothing is there to fetch. -/
theorem resetStateWaits : Obligations.ResetStateWaits :=
  ⟨rfl, rfl, rfl, rfl, rfl, rfl, rfl, step_of_fetch_none rfl rfl⟩

/-- Settles O37: no key is loaded and every channel is empty. -/
theorem invariantHoldsAtReset : Obligations.InvariantHoldsAtReset :=
  ⟨nofun, nofun, trivial, rfl⟩

end Sys2Proof.Proofs.EngineState
end

section
/-! Proofs of the family 20_memory.md: the byte order of blocks (rule R56), what a step takes from CMD and adds to RSP and
DOUT (rules R60 and R62), and whole runs (rules R247 and R248). -/

namespace Sys2Proof.Machine

open Safety

/-! ### The bytes of a half -/

/-- Rule R56: the four bytes of a half as digits to the base 256, the first one the highest. -/
theorem toNat_payloadHalf (p : List Byte) (k : Nat) :
    (payloadHalf p k).toNat =
      (payloadByte p k).toNat * 2 ^ 24 + (payloadByte p (k + 1)).toNat * 2 ^ 16 +
        (payloadByte p (k + 2)).toNat * 2 ^ 8 + (payloadByte p (k + 3)).toNat := by
  have happend {w : Nat} (x : BitVec w) (b : Byte) : (x ++ b).toNat = x.toNat * 2 ^ 8 + b.toNat := by
    rw [BitVec.toNat_append, ← Nat.shiftLeft_add_eq_or_of_lt b.isLt, Nat.shiftLeft_eq]
  rw [payloadHalf, happend, happend, happend]
  omega

/-- The byte of a half at bit `j` is the digit there. -/
theorem extractLsb'_eq_byte {v : Half} {b : Byte} {j : Nat} (h : v.toNat / 2 ^ j % 2 ^ 8 = b.toNat) :
    v.extractLsb' j 8 = b := by
  apply BitVec.eq_of_toNat_eq
  rw [BitVec.extractLsb'_toNat, Nat.shiftRight_eq_div_pow, h]

/-- Rule R56: a half gives back the four bytes it was put together from. -/
theorem halfBytes_payloadHalf (p : List Byte) (k : Nat) :
    halfBytes (payloadHalf p k) =
      [payloadByte p k, payloadByte p (k + 1), payloadByte p (k + 2), payloadByte p (k + 3)] := by
  have hv := toNat_payloadHalf p k
  have h0 := (payloadByte p k).isLt
  have h1 := (payloadByte p (k + 1)).isLt
  have h2 := (payloadByte p (k + 2)).isLt
  have h3 := (payloadByte p (k + 3)).isLt
  unfold halfBytes
  rw [extractLsb'_eq_byte (b := payloadByte p k) (by omega), extractLsb'_eq_byte (b := payloadByte p (k + 1)) (by omega),
    extractLsb'_eq_byte (b := payloadByte p (k + 2)) (by omega), extractLsb'_eq_byte (b := payloadByte p (k + 3)) (by omega)]

/-! ### What a step takes from CMD and adds to RSP and DOUT -/

/-- From `s` to `t` nothing is taken from CMD, and RSP and DOUT grow at their ends only, RSP by one word at most (rules R60
and R62). -/
def OnlySends (s t : State) : Prop :=
  t.cmd = s.cmd ∧ (t.rsp = s.rsp ∨ ∃ v, t.rsp = s.rsp ++ [v]) ∧ ∃ q, t.dout = s.dout ++ q

section sending

variable (s : State)

theorem OnlySends.refl : OnlySends s s := ⟨rfl, .inl rfl, [], (List.append_nil _).symm⟩

/-- Result bytes go to the end of DOUT, and no word to RSP. -/
theorem offerBytes_sends (q : List Byte) :
    (offerBytes q s).cmd = s.cmd ∧ (offerBytes q s).rsp = s.rsp ∧ ∃ q', (offerBytes q s).dout = s.dout ++ q' := by
  rcases offerBytes_cases q s with ⟨-, h⟩ | ⟨-, -, h⟩ <;> rw [h]
  · exact ⟨rfl, rfl, q, rfl⟩
  · exact ⟨rfl, rfl, [], (List.append_nil _).symm⟩

theorem offerBytes_onlySends (q : List Byte) : OnlySends s (offerBytes q s) := by
  obtain ⟨hcmd, hrsp, hdout⟩ := offerBytes_sends s q
  exact ⟨hcmd, .inl hrsp, hdout⟩

theorem offerWord_onlySends (v : ResponseWord) (q : List Byte) : OnlySends s (offerWord v q s) := by
  rcases offerWord_cases v q s with ⟨-, h⟩ | ⟨-, h⟩ <;> rw [h]
  · obtain ⟨hcmd, hrsp, hdout⟩ := offerBytes_sends { s with rsp := s.rsp ++ [v] } q
    exact ⟨hcmd, .inr ⟨v, hrsp⟩, hdout⟩
  · exact OnlySends.refl s

theorem settle_onlySends : OnlySends s (settle s) := by
  unfold settle
  split
  · exact offerWord_onlySends s _ _
  · exact offerBytes_onlySends s _
  · exact OnlySends.refl s
  · exact OnlySends.refl s

/-- A command word, once taken, runs without a look at CMD. -/
theorem runWord_onlySends (w : CommandWord) : ∃ t, runWord w s = .next t ∧ OnlySends s t := by
  rcases runWord_outcome s w with ⟨-, hrun⟩ | ⟨-, t, hrun, _, _, _, _, _, rfl⟩
  · exact ⟨s, hrun, OnlySends.refl s⟩
  · exact ⟨_, hrun, offerWord_onlySends _ _ _⟩

variable {s}

/-- Rules R60 and R62: a step that is no reset event takes the oldest word from CMD, and only in `IDLE`, and then only
sends. -/
theorem step_onlySends (hr : s.rstN = true) :
    ∃ t, step s = .next t ∧ OnlySends { s with cmd := if s.seq = .idle then s.cmd.drop 1 else s.cmd } t := by
  rcases hf : fetch s with _ | ⟨w, s1⟩
  · refine ⟨_, step_of_fetch_none hr hf, ?_⟩
    have hcmd : (if s.seq = .idle then s.cmd.drop 1 else s.cmd) = s.cmd := by
      rcases fetch_none s hf with ⟨-, hc, -⟩ | ⟨v, q, hs, -⟩ | ⟨q, hs, -⟩
      · simp [hc]
      · simp [hs]
      · simp [hs]
    rw [hcmd]
    exact settle_onlySends s
  · obtain ⟨t, hrun, hsends⟩ := runWord_onlySends s1 w
    refine ⟨t, (step_of_fetch hr hf).trans hrun, ?_⟩
    rcases fetch_cases s hf with ⟨hs, rest, hc, rfl⟩ | ⟨hs, rfl⟩
    · rw [if_pos hs, hc]
      exact hsends
    · rw [if_neg (by simp [hs])]
      exact hsends

end sending

/-! ### Runs -/

section runs

variable {s t u : State}

/-- Rules R68 and R78: a response frame that is all there is on RSP and DOUT is collected whole. -/
theorem hostCollect_of_one_frame {f : ResponseFrame} (hrsp : s.rsp = [f.word]) (hdout : s.dout = f.bytes)
    (hlen : f.bytes.length = rlenField f.word) : hostCollect s = some (f, { s with rsp := [], dout := [] }) := by
  simp [hostCollect, hrsp, hdout, ← hlen]

/-- A command frame of a run is answered with what the host collects after the step on it (rule R248). -/
theorem runItem_frame_of_step {w : CommandWord} {p : List Byte} (h : step (hostSend w p s) = .next t) :
    runItem (.frame w p) s = (hostCollect t).map fun c => ([c.1], c.2) := by simp [runItem, h]

/-- Rule R248: a well-framed command frame sent to an engine at rest is answered with the frame of the big-step reading,
and the engine is at rest again. -/
theorem runItem_frame {w : CommandWord} {p : List Byte} (h : atRest s) (hp : p.length = ilenField w) :
    ∃ t, runItem (.frame w p) s = some ([(bigStep s.rom s.kv s.rk w p).answer], t) ∧ atRest t ∧ t.rom = s.rom ∧
      t.kv = (bigStep s.rom s.kv s.rk w p).kv ∧ t.rk = (bigStep s.rom s.kv s.rk w p).rk := by
  obtain ⟨hs, hc, hdin, hrsp, hdout, hr, hrr, hdr⟩ := h
  have hdin' : (hostSend w p s).din = p := by simp [hdin]
  obtain ⟨t, hstep, hkv, hrk, hseq, hcmd, htdin, htrsp, htdout, hlen, htr, htrr, htdr⟩ :=
    Proofs.EngineState.stepIsTheBigStepReading (hostSend w p s) w [] hr hs (by simp [hc])
      (by rw [hdin', hp]) ⟨hrr, hdr⟩
  rw [hdin', ← hp, List.take_length] at hkv hrk htrsp htdout hlen
  rw [hdin', ← hp, List.drop_length] at htdin
  rw [hostSend_rsp, hrsp, List.nil_append] at htrsp
  rw [hostSend_dout, hdout, List.nil_append] at htdout
  have hrom : t.rom = s.rom := by
    obtain ⟨t', ht', hrom⟩ := step_rom (hostSend w p s)
    obtain rfl : t' = t := Host.Outcome.next.inj (ht'.symm.trans hstep)
    exact hrom
  refine ⟨{ t with rsp := [], dout := [] }, ?_, ?_, hrom, hkv, hrk⟩
  · rw [runItem_frame_of_step hstep, hostCollect_of_one_frame htrsp htdout hlen]
    rfl
  · exact ⟨hseq, hcmd, htdin, rfl, rfl, htr.trans hr, htrr.trans hrr, htdr.trans hdr⟩

/-- Rule R248: a reset event between two commands emits nothing, clears `KV` and leaves the engine at rest. -/
theorem runItem_resetEvent (h : atRest s) :
    ∃ t, runItem .resetEvent s = some ([], t) ∧ atRest t ∧ t.rom = s.rom ∧ t.kv = false := by
  obtain ⟨-, -, -, -, -, -, hrr, hdr⟩ := h
  have hstep : step (hostDriveReset false s) = .next (takeReset (hostDriveReset false s)) := step_of_rstN_false rfl
  refine ⟨hostDriveReset true (takeReset (hostDriveReset false s)), ?_, ?_, rfl, rfl⟩
  · simp [runItem, hstep]
  · exact ⟨rfl, rfl, rfl, rfl, rfl, rfl, hrr, hdr⟩

/-- A run is its first item and then the run of the others, the frames in order. -/
theorem run_cons {item : RunItem} {items : List RunItem} {out outs : List ResponseFrame}
    (hitem : runItem item s = some (out, t)) (hitems : run items t = some (outs, u)) :
    run (item :: items) s = some (out ++ outs, u) := by
  simp [run, hitem, hitems]

/-- Two outcomes of a run that look the same to a host: the frames, `KV`, and the RK file where a key is loaded. -/
def SameOutcome (b b' : List ResponseFrame × Bool × RoundKeys) : Prop :=
  b.1 = b'.1 ∧ b.2.1 = b'.2.1 ∧ (b.2.1 = true → b.2.2 = b'.2.2)

theorem SameOutcome.trans {a b c : List ResponseFrame × Bool × RoundKeys} (h : SameOutcome a b) (h' : SameOutcome b c) :
    SameOutcome a c := by
  obtain ⟨hframes, hkv, hrk⟩ := h
  obtain ⟨hframes', hkv', hrk'⟩ := h'
  exact ⟨hframes.trans hframes', hkv.trans hkv', fun hk => (hrk hk).trans (hrk' (hkv ▸ hk))⟩

theorem SameOutcome.cons {b b' : List ResponseFrame × Bool × RoundKeys} (h : SameOutcome b b') (f : ResponseFrame) :
    SameOutcome (f :: b.1, b.2) (f :: b'.1, b'.2) := by
  obtain ⟨hframes, hkeys⟩ := h
  exact ⟨congrArg (f :: ·) hframes, hkeys⟩

theorem bigRun_frame (x : Config.SBoxes) (w : CommandWord) (p : List Byte) (items : List RunItem) (kv : Bool)
    (rk : RoundKeys) :
    bigRun x (.frame w p :: items) kv rk =
      ((bigStep x kv rk w p).answer :: (bigRun x items (bigStep x kv rk w p).kv (bigStep x kv rk w p).rk).1,
        (bigRun x items (bigStep x kv rk w p).kv (bigStep x kv rk w p).rk).2) := rfl

/-- Rule R247: a run depends on the RK file only where a key is loaded. -/
theorem bigRun_of_same_keys (x : Config.SBoxes) (items : List RunItem) {kv : Bool} {rk rk' : RoundKeys}
    (h : kv = true → rk = rk') : SameOutcome (bigRun x items kv rk) (bigRun x items kv rk') := by
  induction items generalizing kv rk rk' with
  | nil => exact ⟨rfl, rfl, h⟩
  | cons item items ih =>
    cases item with
    | frame w p =>
      obtain ⟨hkv, hrk⟩ := bigStep_keys_of_same_keys x h w p
      rw [bigRun_frame, bigRun_frame, ← hkv, ← bigStep_answer_of_same_keys x h w p]
      exact (ih hrk).cons _
    | resetEvent => exact ih nofun

/-- Rule R248: from rest every well-framed run comes to rest, with the outcome of the big-step reading. -/
theorem run_sameOutcome_bigRun (items : List RunItem) (h : atRest s) (hwf : ∀ item ∈ items, item.wellFramed = true) :
    ∃ outs t, run items s = some (outs, t) ∧ atRest t ∧ SameOutcome (outs, t.kv, t.rk) (bigRun s.rom items s.kv s.rk) := by
  induction items generalizing s with
  | nil => exact ⟨[], s, rfl, h, rfl, rfl, fun _ => rfl⟩
  | cons item items ih =>
    obtain ⟨hitem, hitems⟩ := List.forall_mem_cons.mp hwf
    cases item with
    | frame w p =>
      obtain ⟨t, ht, hrest, hrom, hkv, hrk⟩ := runItem_frame h (by simpa [RunItem.wellFramed] using hitem)
      obtain ⟨outs, u, hu, hurest, hsame⟩ := ih hrest hitems
      rw [hrom, hkv, hrk] at hsame
      exact ⟨_, u, run_cons ht hu, hurest, hsame.cons _⟩
    | resetEvent =>
      obtain ⟨t, ht, hrest, hrom, hkv⟩ := runItem_resetEvent h
      obtain ⟨outs, u, hu, hurest, hsame⟩ := ih hrest hitems
      rw [hrom, hkv] at hsame
      exact ⟨outs, u, run_cons ht hu, hurest, hsame.trans (bigRun_of_same_keys s.rom items nofun)⟩

end runs

end Sys2Proof.Machine

namespace Sys2Proof.Proofs.Memory

open Machine Safety

/-- Settles O8, by `step_onlySends`. -/
theorem commandsAreTakenOneAtATime : Obligations.CommandsAreTakenOneAtATime := by
  intro s t hr hst
  obtain ⟨u, hu, hcmd, hrsp, hdout⟩ := step_onlySends hr
  obtain rfl : u = t := Host.Outcome.next.inj (hu.symm.trans hst)
  exact ⟨fun hs => hcmd.trans (if_neg hs), fun hs => hcmd.trans (if_pos hs), hrsp, hdout⟩

/-- Settles O42, by induction on the items; what the RK file holds while `KV` = 0 is never looked at. -/
theorem everyRunIsTheBigRun : Obligations.EveryRunIsTheBigRun := by
  intro items s h hwf
  obtain ⟨outs, t, hrun, hrest, rfl, hkv, hrk⟩ := run_sameOutcome_bigRun items h hwf
  refine ⟨t, hrun, hrest, hkv, hrk, fun rk' hkv0 => ?_⟩
  obtain ⟨hframes, -⟩ := bigRun_of_same_keys s.rom items (kv := s.kv) (rk := rk') (rk' := s.rk) (by simp [hkv0])
  exact hframes

/-- Settles O24: each half as a number, and the bytes back out of it. -/
theorem blockBytesAreBigEndian : Obligations.BlockBytesAreBigEndian := by
  intro p0 p1 p2 p3 p4 p5 p6 p7 h
  refine ⟨toNat_payloadHalf _ 0, toNat_payloadHalf _ 4, ?_, fun _ => rfl⟩
  exact congrArg₂ (· ++ ·) (halfBytes_payloadHalf _ 0) (halfBytes_payloadHalf _ 4)

end Sys2Proof.Proofs.Memory
end

section
/-! Proofs of the family 40_sbox.md: the tables of rules R102 and R103 are permutations (rule R104). -/

namespace Sys2Proof.Machine

/-! ### Every number is an entry

A set of numbers is one number, with bit `x` set for each member `x`. The members of a table are put together row by row. -/

/-- The bits that are set in some number of a list. -/
def orAll (xs : List Nat) : Nat :=
  xs.foldr (· ||| ·) 0

theorem testBit_orAll (xs : List Nat) (k : Nat) : (orAll xs).testBit k = true ↔ ∃ x ∈ xs, x.testBit k = true := by
  induction xs with
  | nil => simp [orAll]
  | cons x xs ih =>
    have hcons : orAll (x :: xs) = x ||| orAll xs := rfl
    simp [hcons, ih]

/-- The set of the entries of one row. -/
def rowSet (row : List Nat) : Nat :=
  orAll (row.map (1 <<< ·))

theorem testBit_rowSet (row : List Nat) (k : Nat) : (rowSet row).testBit k = true ↔ k ∈ row := by
  simp [rowSet, testBit_orAll, Nat.one_shiftLeft, Nat.testBit_two_pow]

/-- The set of the entries of a table. -/
def tableSet (rows : List (List Nat)) : Nat :=
  orAll (rows.map rowSet)

theorem testBit_tableSet (rows : List (List Nat)) (k : Nat) : (tableSet rows).testBit k = true ↔ k ∈ rows.flatten := by
  simp [tableSet, testBit_orAll, testBit_rowSet]

/-- When the set has all of its low `n` bits, every number below `n` is an entry. -/
theorem mem_flatten_of_tableSet {rows : List (List Nat)} {n k : Nat} (hall : tableSet rows = 1 <<< n - 1) (hk : k < n) :
    k ∈ rows.flatten := by
  rw [← testBit_tableSet, hall, Nat.one_shiftLeft, Nat.testBit_two_pow_sub_one, decide_eq_true hk]

/-- A table of the right size has sixteen entries for each row. -/
theorem TableSized.length_flatten {count bound : Nat} {rows : List (List Nat)} (h : TableSized count bound rows) :
    rows.flatten.length = 16 * count := by
  obtain ⟨rfl, hrows⟩ := h
  have hlengths : rows.map List.length = List.replicate rows.length 16 :=
    List.map_eq_replicate_iff.mpr fun row hr => (hrows row hr).1
  rw [List.length_flatten, hlengths, List.sum_replicate_nat, Nat.mul_comm]

/-- A lookup of `w` bits in a table of `2 ^ w` entries is one-to-one onto when every number of `w` bits is an entry: it is
onto, and its indices are as many as its values. -/
theorem lookup_bijective {w : Nat} {rows : List (List Nat)} {lookup : BitVec w → BitVec w}
    (hlookup : ∀ a, rows.flatten[a.toNat]? = some (lookup a).toNat) (hlen : rows.flatten.length = 2 ^ w)
    (hall : tableSet rows = 1 <<< 2 ^ w - 1) : Function.Bijective lookup := by
  refine Function.Surjective.bijective_of_finite fun b => ?_
  obtain ⟨i, hi, hentry⟩ := List.getElem_of_mem (mem_flatten_of_tableSet hall b.isLt)
  have ha : (BitVec.ofNat w i).toNat = i := Nat.mod_eq_of_lt (hlen ▸ hi)
  refine ⟨BitVec.ofNat w i, BitVec.eq_of_toNat_eq (Option.some.inj ?_)⟩
  rw [← hlookup, ha, List.getElem?_eq_getElem hi, hentry]

/-- Rule R104 for S7: every number of 7 bits is among the entries of rule R102. -/
theorem s7_bijective : Function.Bijective (s7 sBoxes) := by
  obtain ⟨hsized, -⟩ := (wellSized_iff sBoxes).mp sBoxes_wellSized
  have hall : tableSet sBoxes.s7Rows = 1 <<< 2 ^ 7 - 1 := rfl
  exact lookup_bijective (getElem?_s7Rows hsized) hsized.length_flatten hall

/-- Rule R104 for S9: every number of 9 bits is among the entries of rule R103. -/
theorem s9_bijective : Function.Bijective (s9 sBoxes) := by
  obtain ⟨-, hsized⟩ := (wellSized_iff sBoxes).mp sBoxes_wellSized
  have hall : tableSet sBoxes.s9Rows = 1 <<< 2 ^ 9 - 1 := rfl
  exact lookup_bijective (getElem?_s9Rows hsized) hsized.length_flatten hall

end Sys2Proof.Machine

namespace Sys2Proof.Proofs.SBox

open Machine

/-- Settles O28: each table holds every number of its width. -/
theorem tablesArePermutations : Obligations.TablesArePermutations :=
  ⟨s7_bijective, s9_bijective⟩

end Sys2Proof.Proofs.SBox
end

section
/-! Proofs of the family 41_keyschedule.md: the schedule a `LOADKEY` of 16 bytes writes (rules R110 to R120), and the way back from
the RK file to the key (rule R123). -/

namespace Sys2Proof.Machine

/-! ### The key words and the schedule, entry by entry -/

/-- Rule R110: a key word as a number, the earlier byte in the high half. -/
theorem toNat_get_keyWords (p : List Byte) (n : RoundIndex) :
    ((keyWords p).get n).toNat = (payloadByte p (2 * n.val)).toNat * 256 + (payloadByte p (2 * n.val + 1)).toNat := by
  rw [get_keyWords, BitVec.toNat_append, ← Nat.shiftLeft_add_eq_or_of_lt (BitVec.isLt _), Nat.shiftLeft_eq]

/-- A byte within the payload a command takes is the byte on DIN. -/
theorem payloadByte_take (p : List Byte) {k i : Nat} (h : i < k) : payloadByte (p.take k) i = p.getD i 0 := by
  simp only [payloadByte, List.getD_eq_getElem?_getD, List.getElem?_take_of_lt h]

/-- Rule R111: the constants in the order the rule lists them. -/
theorem get_scheduleConstants (n : RoundIndex) :
    scheduleConstants.get n =
      ([0x0123, 0x4567, 0x89AB, 0xCDEF, 0xFEDC, 0xBA98, 0x7654, 0x3210] : List Word).getD n.val 0 := by
  revert n
  decide

/-- An index sum of the schedule with the offset 0 is the round index itself (rule R15). -/
theorem index_add_zero (n : RoundIndex) : Fin.ofNat 8 (n.val + 0) = n := Fin.ext (Nat.mod_eq_of_lt n.isLt)

/-- Rule R120: the length check passes for the key size. -/
theorem loadkeyEffect_of_keySize (p : List Byte) (s : State) :
    loadkeyEffect 16 p s = respond .ok 0 [] (writeKey p s) := by
  rcases loadkeyEffect_cases p s 16 with ⟨-, h⟩ | ⟨hne, -⟩
  · exact h
  · exact absurd rfl hne

/-- `s` after a `LOADKEY` of 16 bytes, for a host that is ready: the key is written, the payload is taken, and one response word is
out. -/
def keyLoaded (s : State) : State :=
  { writeKey (s.din.take 16) s with seq := .idle, din := s.din.drop 16, rsp := s.rsp ++ [0x08000000] }

@[simp] theorem keyLoaded_uk (s : State) : (keyLoaded s).uk = keyWords (s.din.take 16) := rfl
@[simp] theorem keyLoaded_kp (s : State) : (keyLoaded s).kp = kPrime (keyLoaded s).uk := rfl
@[simp] theorem keyLoaded_rk (s : State) : (keyLoaded s).rk = roundKeysOf (keyLoaded s).uk (keyLoaded s).kp := rfl

/-- The frame of a successful `LOADKEY`: it writes `KV`, `UK`, `KP`, the RK file, `SEQ`, DIN and RSP, and nothing else. -/
theorem keyLoaded_frame (s : State) :
    keyLoaded s = { s with kv := true, uk := (keyLoaded s).uk, kp := (keyLoaded s).kp, rk := (keyLoaded s).rk, seq := .idle
                           din := s.din.drop 16, rsp := s.rsp ++ [0x08000000] } := rfl

/-- Rule R120: with its 16 bytes there and a host that is ready, `LOADKEY` loads the key. -/
theorem exec_loadkey_of_keySize (s : State) (hlen : 16 ≤ s.din.length) (hr : s.rspReady = true) (hd : s.doutReady = true) :
    exec (.loadkey 16) s = .next (keyLoaded s) := by
  have hword : responseWord .ok true 0 0 = 0x08000000 := rfl
  calc exec (.loadkey 16) s
      = .next (withPayload 16 s (loadkeyEffect 16)) := rfl
    _ = .next (respond .ok 0 [] (writeKey (s.din.take 16) (takePayload 16 s))) := by
      rw [withPayload_there 16 s _ hlen, loadkeyEffect_of_keySize]
    _ = _ := by
      rw [respond_ready (hr := by simpa using hr) (hd := by simpa using hd), writeKey_kv, List.length_nil, hword,
        List.append_nil]
      rfl

/-! ### The way back from the RK file to the key -/

/-- Rule R14: two rotations whose amounts make up the whole width undo each other, as each bit comes back to its place. -/
theorem rotl16_rotl16_of_add_eq (v : Word) {a b : Nat} (ha : a < 16) (hb : b < 16) (hab : a + b = 16) :
    rotl16 (rotl16 v a) b = v := by
  apply BitVec.eq_of_getLsbD_eq
  intro k hk
  have hround : ((k + a) % 16 + b) % 16 = k := by
    rw [Nat.mod_add_mod, Nat.add_assoc, hab, Nat.add_mod_right, Nat.mod_eq_of_lt hk]
  calc (rotl16 (rotl16 v a) b).getLsbD k
      = (rotl16 (rotl16 v a) b).getLsbD (((k + a) % 16 + b) % 16) := by rw [hround]
    _ = (rotl16 v a).getLsbD ((k + a) % 16) := getLsbD_rotl16 _ hb (Nat.mod_lt _ (by decide))
    _ = v.getLsbD k := getLsbD_rotl16 v ha hk

/-- Rule R123: the key words are read back from `KL1`. -/
theorem get_keyWords_of_kl1 (key : List Byte) (n : RoundIndex) :
    (keyWords key).get n = rotl16 ((keySchedule key).kl1.get n) 15 := by
  rw [keySchedule, get_kl1, rotl16_rotl16_of_add_eq _ (by decide) (by decide) rfl]

theorem keyWords_eq_of_keySchedule_eq {key key' : List Byte} (h : keySchedule key = keySchedule key') :
    keyWords key = keyWords key' :=
  Words8.ext_get fun n => by rw [get_keyWords_of_kl1, h, ← get_keyWords_of_kl1]

/-- Two bytes are read back from the word they make up. -/
theorem bytes_eq_of_append_eq {a b c d : Byte} (h : a ++ b = c ++ d) : a = c ∧ b = d := by
  constructor
  · calc a = (a ++ b).extractLsb' 8 8 := BitVec.extractLsb'_append_eq_left.symm
      _ = c := by rw [h, BitVec.extractLsb'_append_eq_left]
  · calc b = (a ++ b).extractLsb' 0 8 := BitVec.extractLsb'_append_eq_right.symm
      _ = d := by rw [h, BitVec.extractLsb'_append_eq_right]

/-- The key words determine the sixteen bytes: byte `i` is the high or the low half of key word `i / 2`. -/
theorem payloadByte_eq_of_keyWords_eq {p p' : List Byte} (h : keyWords p = keyWords p') {i : Nat} (hi : i < 16) :
    payloadByte p i = payloadByte p' i := by
  have hword := congrArg (·.get ⟨i / 2, Nat.div_lt_of_lt_mul hi⟩) h
  simp only [get_keyWords] at hword
  obtain ⟨hhigh, hlow⟩ := bytes_eq_of_append_eq hword
  rcases Nat.mod_two_eq_zero_or_one i with heven | hodd
  · rwa [Nat.two_mul_div_two_of_even (Nat.even_iff.mpr heven)] at hhigh
  · rwa [Nat.two_mul_div_two_add_one_of_odd (Nat.odd_iff.mpr hodd)] at hlow

/-- Rule R110 loses nothing: keys of 16 bytes with the same key words are the same. -/
theorem eq_of_keyWords_eq {key key' : List Byte} (hlen : key.length = 16) (hlen' : key'.length = 16)
    (h : keyWords key = keyWords key') : key = key' := by
  refine List.ext_getElem (hlen.trans hlen'.symm) fun i hi hi' => ?_
  have hbyte := payloadByte_eq_of_keyWords_eq h (hlen ▸ hi)
  rwa [payloadByte, payloadByte, List.getD_eq_getElem _ _ hi, List.getD_eq_getElem _ _ hi'] at hbyte

end Sys2Proof.Machine

namespace Sys2Proof.Proofs.KeySchedule

open Machine

/-- Settles O11: the next state by `exec_loadkey_of_keySize`, and then each register entry by entry. -/
theorem loadkeyDerivesTheRoundKeys : Obligations.LoadkeyDerivesTheRoundKeys := by
  intro s hlen ⟨hr, hd⟩
  refine ⟨keyLoaded s, exec_loadkey_of_keySize s hlen hr hd, keyLoaded_frame s, fun n => ?ukey, fun n => ?kprime,
    fun n => ?arrays⟩
  case ukey =>
    obtain ⟨n, hn⟩ := n
    rw [keyLoaded_uk, toNat_get_keyWords, payloadByte_take _ (by omega), payloadByte_take _ (by omega)]
  case kprime => rw [keyLoaded_kp, get_kPrime, get_scheduleConstants]
  case arrays =>
    rw [keyLoaded_rk]
    -- The index sums of the model are those of the statement by definition, but for the offset 0 of `KL1`.
    refine ⟨?kl1, get_kl2 _ _ n, ?ko1, ?ko2, ?ko3, get_ki1 _ _ n, get_ki2 _ _ n, get_ki3 _ _ n⟩
    case kl1 =>
      simp only [index_add_zero]
      exact (get_kl1 _ _ n).trans (rotl16_eq_rotateLeft _ (by decide))
    case ko1 => exact (get_ko1 _ _ n).trans (rotl16_eq_rotateLeft _ (by decide))
    case ko2 => exact (get_ko2 _ _ n).trans (rotl16_eq_rotateLeft _ (by decide))
    case ko3 => exact (get_ko3 _ _ n).trans (rotl16_eq_rotateLeft _ (by decide))

/-- Settles O13: `KL1` gives back the key words, and the key words the bytes. -/
theorem keyScheduleIsOneToOne : Obligations.KeyScheduleIsOneToOne :=
  ⟨get_keyWords_of_kl1, fun _ _ hlen hlen' h => eq_of_keyWords_eq hlen hlen' (keyWords_eq_of_keySchedule_eq h)⟩

end Sys2Proof.Proofs.KeySchedule
end

section
/-! Proofs of the family 43_fo.md: FO is the pseudocode of rule R145 on plain numbers. The nine lines of FI (rule R136), which each
stage of FO runs once, come first. -/

namespace Sys2Proof.Machine

open Safety

/-! ### FI line by line, on plain numbers -/

section fiUnits

variable (x subkey : Word) (p : FiParts)

/-- Rule R130: the mask changes nothing, as a word shifted right by 7 has at most 9 bits. -/
theorem toNat_fiSplit_nine : (fiSplit x).nine.toNat = (x.toNat >>> 7) &&& 0x1FF := by
  rw [fiSplit, BitVec.extractLsb'_toNat, ← Nat.and_two_pow_sub_one_eq_mod]

theorem toNat_fiSplit_seven : (fiSplit x).seven.toNat = x.toNat &&& 0x7F := by
  rw [fiSplit, BitVec.extractLsb'_toNat, ← Nat.and_two_pow_sub_one_eq_mod, Nat.shiftRight_zero]

theorem toNat_fiKeyMix_nine : (fiKeyMix subkey p).nine.toNat = p.nine.toNat ^^^ (subkey.toNat &&& 0x1FF) := by
  rw [fiKeyMix, BitVec.toNat_xor, BitVec.extractLsb'_toNat, ← Nat.and_two_pow_sub_one_eq_mod, Nat.shiftRight_zero]

/-- Rule R133: `subkey >> 9` has 7 bits, so no mask is needed. -/
theorem toNat_fiKeyMix_seven : (fiKeyMix subkey p).seven.toNat = p.seven.toNat ^^^ (subkey.toNat >>> 9) := by
  have hseven : subkey.toNat >>> 9 < 2 ^ 7 := by
    rw [Nat.shiftRight_eq_div_pow]
    omega
  rw [fiKeyMix, BitVec.toNat_xor, BitVec.extractLsb'_toNat, Nat.mod_eq_of_lt hseven]

/-- Rule R15: the two operands share no bit, so the sum is the concatenation. -/
theorem toNat_fiJoin : (fiJoin p).toNat = (p.seven.toNat <<< 9) + p.nine.toNat := by
  rw [fiJoin, BitVec.toNat_append, Nat.shiftLeft_add_eq_or_of_lt p.nine.isLt]

end fiUnits

section tables

variable {t : Config.SBoxes}

theorem toNat_s7 (h : TableSized 8 128 t.s7Rows) (a : BitVec 7) : (s7 t a).toNat = romEntry t.s7Rows a.toNat := by
  obtain ⟨-, hbound⟩ := h.getElem?_flatten (a := a.toNat) a.isLt
  rw [s7, BitVec.toNat_ofNat, Nat.mod_eq_of_lt hbound]

theorem toNat_s9 (h : TableSized 32 512 t.s9Rows) (a : BitVec 9) : (s9 t a).toNat = romEntry t.s9Rows a.toNat := by
  obtain ⟨-, hbound⟩ := h.getElem?_flatten (a := a.toNat) a.isLt
  rw [s9, BitVec.toNat_ofNat, Nat.mod_eq_of_lt hbound]

/-- Rule R131, first line: the 7-bit part is extended with zeros, which does not change the number. -/
theorem toNat_fiLayer_nine (h : TableSized 32 512 t.s9Rows) (p : FiParts) :
    (fiLayer t p).nine.toNat = romEntry t.s9Rows p.nine.toNat ^^^ p.seven.toNat := by
  rw [fiLayer, fiLayerNine, BitVec.toNat_xor, toNat_s9 h, BitVec.toNat_setWidth_of_le (by decide)]

/-- Rule R131, second line, with the new `nine` and the old `seven`. -/
theorem toNat_fiLayer_seven (h : TableSized 8 128 t.s7Rows) (p : FiParts) :
    (fiLayer t p).seven.toNat = romEntry t.s7Rows p.seven.toNat ^^^ ((fiLayer t p).nine.toNat &&& 0x7F) := by
  rw [fiLayer, BitVec.toNat_xor, toNat_s7 h, BitVec.extractLsb'_toNat, ← Nat.and_two_pow_sub_one_eq_mod,
    Nat.shiftRight_zero]

/-- Rule R136: the five parts of FI, one after the other, are the nine lines. -/
theorem toNat_fi (ht : t.wellSized = true) (x subkey : Word) : (fi t x subkey).toNat = docFi t x.toNat subkey.toNat := by
  obtain ⟨h7, h9⟩ := (wellSized_iff t).mp ht
  simp only [fi, docFi, toNat_fiJoin, toNat_fiLayer_seven h7, toNat_fiLayer_nine h9, toNat_fiKeyMix_seven,
    toNat_fiKeyMix_nine, toNat_fiSplit_seven, toNat_fiSplit_nine]

/-! ### FO stage by stage, on plain numbers -/

/-- What each of the three stages of FO computes (rules R141 to R143), for any quarters `a` and `b`: `a` and the key `ko` go through
FI, and `b` is exclusive-ored with the result. -/
theorem toNat_fi_xor (ht : t.wellSized = true) (a b ko ki : Word) :
    (fi t (a ^^^ ko) ki ^^^ b).toNat = docFi t (a.toNat ^^^ ko.toNat) ki.toNat ^^^ b.toNat := by
  rw [BitVec.toNat_xor, toNat_fi ht, BitVec.toNat_xor]

end tables

/-- Rules R140 and R150: the left quarter is the high half. -/
theorem toNat_quarters_l (x : Half) : (quarters x).l.toNat = x.toNat >>> 16 := by
  have hhigh : x.toNat >>> 16 < 2 ^ 16 := by
    rw [Nat.shiftRight_eq_div_pow]
    omega
  rw [quarters, hi16, BitVec.extractLsb'_toNat, Nat.mod_eq_of_lt hhigh]

theorem toNat_quarters_r (x : Half) : (quarters x).r.toNat = x.toNat % 2 ^ 16 := by
  rw [quarters, lo16, BitVec.extractLsb'_toNat, Nat.shiftRight_zero]

/-- Rule R144: the right quarter goes to the high half. -/
theorem toNat_foJoin (q : Quarters) : (foJoin q).toNat = (q.r.toNat <<< 16) ||| q.l.toNat := BitVec.toNat_append _ _

end Sys2Proof.Machine

namespace Sys2Proof.Proofs.Fo

open Machine Safety

/-- Settles O26: the split, the three stages and the crossed join, each on plain numbers. -/
theorem foIsTheDocumentsArithmetic : Obligations.FoIsTheDocumentsArithmetic := by
  intro t ht rk n x
  simp only [fo, docFo, toNat_foJoin, foStage3, foStage2, foStage1, toNat_fi_xor ht, toNat_quarters_l, toNat_quarters_r]

end Sys2Proof.Proofs.Fo
end

section
/-! Proofs of the family 44_fl.md: FL on plain numbers (rules R150 to R154). The split is the one FO uses, so its two
equations stand with FO's; here is one equation for the quarter each step changes, and one for the join. -/

namespace Sys2Proof.Machine

open Safety

/-! ### FL step by step, on plain numbers -/

section flSteps

variable (rk : RoundKeys) (n : RoundIndex) (q : Quarters)

@[simp] theorem flAnd_l : (flAnd rk n q).l = q.l := rfl

@[simp] theorem flOr_r : (flOr rk n q).r = q.r := rfl

/-- Rule R14 by the name the pseudocode gives it. -/
theorem toNat_rotl16_eq_docRotl16 (v : Word) (k : Nat) : (rotl16 v k).toNat = docRotl16 v.toNat k := toNat_rotl16 v k

/-- Rule R151: the operator is **and**. -/
theorem toNat_flAnd_r :
    (flAnd rk n q).r.toNat = q.r.toNat ^^^ docRotl16 (q.l.toNat &&& (rk.kl1.get n).toNat) 1 := by
  rw [flAnd, BitVec.toNat_xor, toNat_rotl16_eq_docRotl16, BitVec.toNat_and]

/-- Rule R152: the operator is **or**. -/
theorem toNat_flOr_l :
    (flOr rk n q).l.toNat = q.l.toNat ^^^ docRotl16 (q.r.toNat ||| (rk.kl2.get n).toNat) 1 := by
  rw [flOr, BitVec.toNat_xor, toNat_rotl16_eq_docRotl16, BitVec.toNat_or]

/-- Rule R153: the left quarter stays in the high half. -/
theorem toNat_flJoin : (flJoin q).toNat = (q.l.toNat <<< 16) ||| q.r.toNat := BitVec.toNat_append _ _

end flSteps

end Sys2Proof.Machine

namespace Sys2Proof.Proofs.Fl

open Machine Safety

/-- Settles O27: the split, the two steps (the second on the right quarter the first has changed) and the uncrossed join,
each on plain numbers. -/
theorem flIsTheDocumentsArithmetic : Obligations.FlIsTheDocumentsArithmetic := by
  intro rk n x
  rw [fl, docFl, toNat_flJoin, toNat_flOr_l, flOr_r, toNat_flAnd_r, flAnd_l, toNat_quarters_l, toNat_quarters_r]

end Sys2Proof.Proofs.Fl
end

section
/-! Proofs of the family 46_info.md: `INFO` is one word, and its answer is the two sizes with `KV` (rule R190). -/

namespace Sys2Proof.Machine

/-! ### The one word of `INFO` -/

section infoWord

variable (w : CommandWord)

/-- Rule R71: `OPC` is the top digit of the word. -/
theorem toNat_opcField : (opcField w).toNat = w.toNat / 2 ^ 28 := by
  rw [opcField, BitVec.extractLsb'_toNat, Nat.shiftRight_eq_div_pow]
  omega

/-- Rule R71: the four fields are the whole word, so no two words agree in all of them. -/
theorem toNat_eq_fields :
    w.toNat = (opcField w).toNat * 2 ^ 28 + (rsvField w).toNat * 2 ^ 16 + olenField w * 2 ^ 8 + ilenField w := by
  rw [toNat_opcField]
  simp only [rsvField, olenField, ilenField, BitVec.extractLsb'_toNat, Nat.shiftRight_eq_div_pow]
  omega

variable {w}

/-- Rule R71: the fields of a word that decodes are those of its command. -/
theorem fields_of_decode {i : Instr} (h : decode w = .ok i) :
    opcField w = opcodeOf i ∧ rsvField w = 0 ∧ olenField w = i.resultRoom ∧ ilenField w = i.payloadLength := by
  have hilen := payloadLength_of_decode h
  unfold decode at h
  split_ifs at h with hrsv hload holen henc hdec hinfo hroom _ <;> cases h
  · exact ⟨hload, not_not.mp hrsv, not_not.mp holen, hilen.symm⟩
  · exact ⟨henc, not_not.mp hrsv, rfl, hilen.symm⟩
  · exact ⟨hdec, not_not.mp hrsv, rfl, hilen.symm⟩
  · exact ⟨hinfo, not_not.mp hrsv, not_not.mp hroom, hilen.symm⟩

/-- Rule R75: the row of `INFO` fixes every bit. -/
theorem decode_eq_info_iff : decode w = .ok .info ↔ w = 0x40000000 := by
  constructor
  · intro h
    obtain ⟨hopc, hrsv, holen, hilen⟩ := fields_of_decode h
    apply BitVec.eq_of_toNat_eq
    rw [toNat_eq_fields w, hopc, hrsv, holen, hilen]
    rfl
  · rintro rfl
    decide

/-- Rule R74: the opcode of `INFO` is no other command's. -/
theorem eq_info_of_opcodeOf {i : Instr} (h : opcodeOf i = 0x4#4) : i = .info := by
  cases i with
  | loadkey => exact absurd h (by decide : (0x1#4 : BitVec 4) ≠ 0x4#4)
  | encrypt => exact absurd h (by decide : (0x2#4 : BitVec 4) ≠ 0x4#4)
  | decrypt => exact absurd h (by decide : (0x3#4 : BitVec 4) ≠ 0x4#4)
  | info => rfl

/-- Rules R75 and R76: with the opcode of `INFO` every word but its own is illegal. -/
theorem decode_error_of_info_opcode (h : opcField w = 0x4#4) (hne : w ≠ 0x40000000) : ∃ e, decode w = .error e := by
  rcases hd : decode w with e | i
  · exact ⟨e, rfl⟩
  · obtain ⟨hopc, -⟩ := fields_of_decode hd
    obtain rfl : i = .info := eq_info_of_opcodeOf (hopc.symm.trans h)
    exact absurd (decode_eq_info_iff.mp hd) hne

end infoWord

/-! ### Its answer -/

/-- Rules R80 and R190: the two response words of `INFO`. -/
theorem responseWord_sizesInfo (kv : Bool) :
    responseWord .ok kv 0 sizesInfo = if kv then 0x08000810 else 0x00000810 := by
  cases kv <;> rfl

/-- Rule R190: no payload is taken, so `INFO` is its response alone. -/
theorem exec_info (s : State) : exec .info s = .next (respond .ok sizesInfo [] s) :=
  congrArg Host.Outcome.next (withPayload_zero s _)

end Sys2Proof.Machine

namespace Sys2Proof.Proofs.Info

open Machine Safety

/-- Settles O18: the decoder's row for `INFO`, and the response a host that is ready gets. -/
theorem infoAnswersTheSizes : Obligations.InfoAnswersTheSizes := by
  refine ⟨fun w => ⟨decode_eq_info_iff, fun hopc hne => ?illegal⟩, fun s ⟨hr, hd⟩ => ?answer⟩
  case illegal => exact decode_error_of_info_opcode (BitVec.eq_of_toNat_eq ((toNat_opcField w).trans hopc)) hne
  case answer =>
    rw [exec_info, respond_ready _ _ _ _ hr hd, List.length_nil, responseWord_sizesInfo, List.append_nil]

end Sys2Proof.Proofs.Info
end
